-- ==== Sys2Proof/Word.lean ====
section
/-!
DEFINITION. The unit of storage of the patch decoder unit (PDU): the byte (spec 00_scope.md section 4,
20_memory.md rules R60, R65, R67). No quantity of the format is wider than a byte in memory.
-/

namespace Sys2Proof

/-- A byte: an unsigned 8-bit quantity, bit 0 least significant (00_scope.md section 4). -/
abbrev Byte := BitVec 8

/-- A 7-bit character code, one cell of the `NAME` register (10_state.md rule R40). -/
abbrev Code := BitVec 7

end Sys2Proof
end

