-- ==== Sys2Proof/Config.lean ====
section
/-!
DEFINITION. What is fixed for the life of a PDU instance: the constants of rule R6, the strap `PMS_SOURCE`
(R8) and the whitespace set `WS` (R10, R185) that an instance is built with, the constant tables `NOTE`,
`CURVE`, `WAVE`, `FIXMULT` (R44 to R47), and the one free value, the tie rule `TIE` (R9, R206).
-/

namespace Sys2Proof

/-- The two legal values of the strap `PMS_SOURCE`: where pitch-mod sensitivity is read (rules R8, R43, R183). -/
inductive PmsSource where
  /-- `B116_HI`, coded 0, the default: record byte 116, bits 6 to 4. -/
  | b116Hi
  /-- `B117_LO`, coded 1: record byte 117, bits 2 to 0. -/
  | b117Lo
deriving DecidableEq, Repr

/-- The strap's one-bit coding (rule R43): 0 is `B116_HI`, 1 is `B117_LO`. -/
def PmsSource.code : PmsSource → BitVec 1
  | .b116Hi => 0
  | .b117Lo => 1

/-- The parameters an instance is built with: the strap and the whitespace set (00_scope.md R8, R10; the last
table of 92_eei_decisions.md). A set of 7-bit codes, since every member of `WS` is below `0x80` there. -/
structure Params where
  pmsSource : PmsSource
  ws        : List Code
deriving DecidableEq, Repr

namespace Config

/-! ### Constants of rule R6 -/

/-- `BANK_SIZE`: a bank is exactly 4104 bytes. -/
def bankSize : Nat := 4104
/-- `SIG`: the signature at bank offsets 0 to 5. -/
def signature : List Byte := [0xF0, 0x43, 0x00, 0x09, 0x20, 0x00]
/-- `REC_BASE`: bank offset of record 0. -/
def recBase : Nat := 6
/-- `NVOICES`: records in a bank. -/
def nVoices : Nat := 32
/-- `REC_SIZE`: bytes in a record, hence the size of `RB`. -/
def recSize : Nat := 128
/-- `OPS_SIZE`: bytes in an operator slice. -/
def opsSize : Nat := 17
/-- `NAME_OFF`: record offset of the name. -/
def nameOff : Nat := 118
/-- `NAME_MAX`: the name's bytes in the record, hence its greatest length. -/
def nameMax : Nat := 10
/-- `BP_MAX`: the largest break-point byte that is looked up. -/
def bpMax : Nat := 99
/-- `TUNE_BIAS`: what `XTUNE` subtracts. -/
def tuneBias : Int := 7
/-- `RATIO_DIV`: the divisor of `FINE_RAW` in RATIO mode. -/
def ratioDiv : Rat := 100
/-- `FIXED_BASE`: 1.023293 read as the exact decimal (rules R6, R203b). -/
def fixedBase : Rat := 1023293 / 1000000
/-- `DP_RATIO`: decimal places shown in RATIO mode. -/
def dpRatio : Nat := 2
/-- `DP_FIXED`: decimal places shown in FIXED mode. -/
def dpFixed : Nat := 3

/-- The default whitespace set of rule R185: tab, line feed, vertical tab, form feed, carriage return, space. -/
def defaultWs : List Code := [0x09, 0x0A, 0x0B, 0x0C, 0x0D, 0x20]

/-- The instance the spec takes by default: strap `B116_HI` (rule R8) and the set of rule R185. -/
def defaultParams : Params := { pmsSource := .b116Hi, ws := defaultWs }

/-! ### Constant tables (rules R44 to R47, R264)

The strings are the spec's own (decisions D6, D8, D9); the order and the names the spec itself marks as general
knowledge are PRESUMED (notes/assumptions/10.md). No register holds a string. -/

/-- `FIXMULT[n]` (rule R47). The default 1 stands for "default 1.0 if absent" and no 2-bit index reaches it. -/
def fixmult (n : Nat) : Nat := [1, 10, 100, 1000].getD n 1

/-- The letters of the twelve semitones of an octave from C up: rule R44's `PC` without its sharp signs. -/
def semitoneLetters : List Char := "CCDDEFFGGAAB".toList

/-- The semitones of an octave that rule R44's `PC` spells with a sharp sign: those whose letter the semitone below
already has. -/
def isSharp (semitone : Nat) : Bool :=
  semitone ≠ 0 && semitoneLetters[semitone]? = semitoneLetters[semitone - 1]?

/-- The octave number that stands in a note's name when `octave` whole octaves lie below it, `str(octave - 1)` of rule
R44. -/
def octaveText (octave : Nat) : List Char :=
  if octave = 0 then "-1".toList else Nat.toDigits 10 (octave - 1)

/-- `NOTE[n]` for `n` = 0 to 99: pitch class `(n + 9) mod 12`, then octave `floor((n + 9) / 12) - 1` (rule R44). -/
def note (n : Nat) : String :=
  let semitone := (n + 9) % 12
  let sharp := if isSharp semitone then ['#'] else []
  String.ofList (semitoneLetters.getD semitone ' ' :: sharp ++ octaveText ((n + 9) / 12))

/-- The three characters shown for `BP_NA` (rule R28). -/
def notAvailable : String := "N/A"

/-- `CURVE[n]` as the spec spells it (rule R45). -/
def curve (n : Nat) : String := ["-LIN", "-EXP", "+EXP", "+LIN"].getD n ""

/-- `WAVE[n]` for `n` = 0 to 5 as the spec spells it (rule R46). -/
def wave (n : Nat) : String :=
  ["TRIANGLE", "SAW DOWN", "SAW UP", "SQUARE", "SINE", "S/HOLD"].getD n ""

/-! ### The free value -/

/-- `TIE` (rules R9, R206): whether a value exactly half-way between `m` and `m + 1` goes up. The document gives no
rounding rule, so this constant has no body: nothing can be proved of it, and a claim that holds, holds for both
neighbours. Its first argument is the model's draw counter (`State.draws`), its second the lower neighbour `m`:
the draw need not be the same twice. -/
opaque tieUp : Nat → Nat → Bool

end Config

end Sys2Proof
end

