-- ==== Sys2Proof/Syntax.lean ====
section
/-!
DEFINITION. The instructions of the PDU: its 28 field extractors (30_encoding.md rules R88, R107). An extractor's
operands are the slice index `i` (R130) or stage index `j` it is wired for, and the fields of the byte or bytes it
is wired to, as the table's `fields` name them (`XTUNE`'s 4-bit `t`, `XCOARSE`'s 7-bit `c` and 1-bit `m`, ...).
The four rows of a quartet are one constructor with the table's `operand_j`; the two rows of `GPMS` are one
constructor with the strap value its row belongs to (DESIGN CHOICE, notes/assumptions/9.md).
-/

namespace Sys2Proof

/-- One field extractor, with the field it has taken out of the record (rule R88). `i` is the RAW slice index. -/
inductive Instr where
  /-- `XEGR j`: EG rate of stage `j + 1` (R131). -/
  | xegr (i : Fin 6) (j : Fin 4) (v : Byte)
  /-- `XEGL j`: EG level of stage `j + 1` (R132). -/
  | xegl (i : Fin 6) (j : Fin 4) (v : Byte)
  /-- `XBP`: break point (R136). -/
  | xbp (i : Fin 6) (v : Byte)
  /-- `XLD`: left depth (R137). -/
  | xld (i : Fin 6) (v : Byte)
  /-- `XRD`: right depth (R138). -/
  | xrd (i : Fin 6) (v : Byte)
  /-- `XLC`: left curve, `PB11` bits 1 to 0 (R139). -/
  | xlc (i : Fin 6) (l : BitVec 2)
  /-- `XRC`: right curve, `PB11` bits 3 to 2 (R140). -/
  | xrc (i : Fin 6) (r : BitVec 2)
  /-- `XTUNE`: detune field `DT`, `PB12` bits 6 to 3 (R141). -/
  | xtune (i : Fin 6) (t : BitVec 4)
  /-- `XRS`: rate scale, `PB12` bits 2 to 0 (R142). -/
  | xrs (i : Fin 6) (r : BitVec 3)
  /-- `XAMS`: amplitude modulation sensitivity, `PB13` bits 1 to 0 (R143). -/
  | xams (i : Fin 6) (a : BitVec 2)
  /-- `XKVS`: key velocity sensitivity, `PB13` bits 4 to 2 (R144). -/
  | xkvs (i : Fin 6) (k : BitVec 3)
  /-- `XLVL`: output level (R145). -/
  | xlvl (i : Fin 6) (v : Byte)
  /-- `XMODE`: oscillator mode, `PB15` bit 0 (R146). -/
  | xmode (i : Fin 6) (m : BitVec 1)
  /-- `XCOARSE`: coarse selector `CS`, `PB15` bits 7 to 1, and mode, bit 0 (R147). -/
  | xcoarse (i : Fin 6) (c : BitVec 7) (m : BitVec 1)
  /-- `XFINE`: raw fine byte (R148). -/
  | xfine (i : Fin 6) (v : Byte)
  /-- `GPEGR j`: pitch-envelope rate of stage `j + 1` (R171). -/
  | gpegr (j : Fin 4) (v : Byte)
  /-- `GPEGL j`: pitch-envelope level of stage `j + 1` (R172). -/
  | gpegl (j : Fin 4) (v : Byte)
  /-- `GALG`: algorithm field `AL`, `PB110` bits 4 to 0 (R173). -/
  | galg (a : BitVec 5)
  /-- `GFB`: feedback, `PB110` bits 7 to 5 (R174). -/
  | gfb (f : BitVec 3)
  /-- `GOSYNC`: oscillator sync, `PB111` bit 3 (R175). -/
  | gosync (o : BitVec 1)
  /-- `GLSPD`: LFO speed (R176). -/
  | glspd (v : Byte)
  /-- `GLDLY`: LFO delay (R177). -/
  | gldly (v : Byte)
  /-- `GLPMD`: LFO pitch-modulation depth (R178). -/
  | glpmd (v : Byte)
  /-- `GLAMD`: LFO amplitude-modulation depth (R179). -/
  | glamd (v : Byte)
  /-- `GLSYNC`: LFO key sync, `PB116` bit 0 (R180). -/
  | glsync (b : BitVec 1)
  /-- `GLWAVE`: LFO wave code, `PB116` bits 3 to 1 (R182). -/
  | glwave (w : BitVec 3)
  /-- `GPMS`: pitch-modulation sensitivity, `PB116` bits 6 to 4 for the row of strap `B116_HI`, `PB117` bits 2 to 0
  for the row of strap `B117_LO` (R183). -/
  | gpms (src : PmsSource) (p : BitVec 3)
  /-- `GNAME`: the ten name bytes, character 0 first (R184). -/
  | gname (n : Vector Byte 10)
deriving DecidableEq, Repr

end Sys2Proof
end

