-- ==== Sys2Proof/Machine/Interface.lean ====
section
/-!
DEFINITION. The boundary between the two agents (20_memory.md rule R71, 60_exceptions.md rule R249): the names of the
145 output registers, what a `READ` of each returns, the commands the host can issue, and what the host is told.
Plain data only; the meaning of a command is in Machine/Commands.lean.
-/

namespace Sys2Proof.Machine

/-- The name of one of the 145 output registers (10_state.md rules R25 to R40). `d` is the DISPLAY index: `d = 0` is
OP1. `NAME` and `NAME_LEN` are read together (rule R193). DESIGN CHOICE (notes/assumptions/13.md): the raw code
`LFO.WAVE_CODE`, which R39 calls a register and R48 lists, is no name of its own here, R25's 145 registers leaving no
room for it beside `LFO.WAVE`, so a `READ` does not tell codes 6 and 7 apart. -/
inductive OutReg where
  | egr (d : Fin 6) (j : Fin 4)
  | egl (d : Fin 6) (j : Fin 4)
  | bp (d : Fin 6)
  | ld (d : Fin 6)
  | rd (d : Fin 6)
  | lc (d : Fin 6)
  | rc (d : Fin 6)
  | tune (d : Fin 6)
  | rs (d : Fin 6)
  | ams (d : Fin 6)
  | kvs (d : Fin 6)
  | level (d : Fin 6)
  | mode (d : Fin 6)
  | coarse (d : Fin 6)
  | fineRaw (d : Fin 6)
  | pegr (j : Fin 4)
  | pegl (j : Fin 4)
  | alg
  | fb
  | osync
  | lfoSpeed
  | lfoDelay
  | lfoPmd
  | lfoAmd
  | lfoSync
  | lfoWave
  | pms
  | name
deriving DecidableEq, Repr

/-- What a `READ` returns, as the mathematical value of the register (rule R193; 00_scope.md section 4). -/
inductive RegValue where
  /-- An unsigned register. -/
  | unsigned (n : Nat)
  /-- `TUNE`, the one signed register (rule R32). -/
  | signed (z : Int)
  /-- `BP`, the pair of `BP_NA` and `BP_IDX` (rule R193). -/
  | breakPoint (na : Bool) (idx : Nat)
  /-- `COARSE`, an exact rational (rule R36). -/
  | rational (q : Rat)
  /-- `LFO.WAVE`: `some w` is `wave(w)`, `none` is the sentinel `WAVE_NA` (rule R39). -/
  | wave (w : Option Nat)
  /-- `NAME`: `NAME_LEN` and all ten codes (rule R193). -/
  | name (len : Nat) (codes : List Code)
deriving DecidableEq, Repr

/-- What the host finds where it looks for a bank (40_bank_loader.md rules R111, R117). -/
inductive BankSource where
  /-- An I/O failure: the bank cannot be read at all. -/
  | unreadable
  /-- A byte sequence of any length. -/
  | bytes (buf : List Byte)
deriving DecidableEq, Repr

/-- The two host-side rejections (60_exceptions.md rules R241, R242). -/
inductive Rejection where
  | invalidBank
  | sourceUnreadable
deriving DecidableEq, Repr

/-- The spec's codes of the rejections (rules R241, R242): labels, not register values (rule R243). -/
def Rejection.code : Rejection → Nat
  | .invalidBank => 1
  | .sourceUnreadable => 2

/-- What the host can do next. The first group acts on the PDU (42_global_decode.md rules R191 to R193,
70_reset_and_hazards.md rule R261, 43_tuning_transforms.md rule R200); the second is the host's own bank handling
(40_bank_loader.md). -/
inductive Command where
  /-- `RESET` (R261). -/
  | reset
  /-- `LOAD rec`: all 128 bytes of `RB` (R191). -/
  | load (record : Vector Byte 128)
  /-- `RecWrite(a, v)`: one byte of `RB` (R191). -/
  | recWrite (a : Nat) (v : Byte)
  /-- `RecRead(a)`: the host reads back what it wrote (R41, R60). -/
  | recRead (a : Nat)
  /-- `DECODE` (R192). -/
  | decode
  /-- `READ reg` (R193). -/
  | read (r : OutReg)
  /-- `READ STATUS` (R193). -/
  | readStatus
  /-- Reading the strap (R43). -/
  | readStrap
  /-- Evaluating `FINE(d)` (R201). -/
  | fine (d : Fin 6)
  /-- Evaluating `FINEDEC(d)` (R204). -/
  | fineDec (d : Fin 6)
  /-- The host obtains a bank and applies `VALIDATE` to it (R111, R112, R117). -/
  | presentBank (src : BankSource)
  /-- `LOAD SLICE(buf, k)` of an accepted bank (R114, R116). -/
  | loadSlice (buf : List Byte) (k : Nat)
  /-- `LOAD SLICE(buf, slot - 1)`: the same by slot number, 1 to 32 (R115, R116). -/
  | loadSlot (buf : List Byte) (slot : Nat)
deriving DecidableEq, Repr

/-- What the host is told by a command that answers something. -/
inductive Reply where
  | status (v : Byte)
  | value (r : OutReg) (v : RegValue)
  | recByte (a : Nat) (v : Byte)
  | strap (src : PmsSource)
  | fine (d : Fin 6) (q : Rat)
  /-- The pair (`dp`, `q`) of rule R204: the decimal number `q / 10^dp`. -/
  | fineDec (d : Fin 6) (dp q : Nat)
  | accepted
  | rejected (why : Rejection)
deriving DecidableEq, Repr

end Sys2Proof.Machine
end

