-- ==== Sys2Proof/WellFormed.lean ====
section
/-!
DEFINITION. What the spec asks of an instruction, a command and an instance's parameters before they mean anything.
Bounds that are plain facts about one operand (slice 0 to 5, stage 0 to 3, field widths, ten name bytes, 128 record
bytes) are in the types.
-/

namespace Sys2Proof

/-- An instruction belongs to an instance's hardwired set when its row does: the two rows of `GPMS` belong to one
strap value each (30_encoding.md rules R91, R92; 42_global_decode.md rule R183), every other row to both. -/
def Instr.wf (strap : PmsSource) : Instr → Bool
  | .gpms src _ => src = strap
  | _ => true

/-- The constraint on `WS`: it contains `0x20` (92_eei_decisions.md, table of open parameters); that its members are
below `0x80` is in the type. -/
def Params.wf (p : Params) : Bool := p.ws.contains 0x20

/-- The operands a host may give a command: a record address 0 to 127 (00_scope.md section 4), a record index 0 to
31 (40_bank_loader.md rule R114), a slot number 1 to 32 (rule R115). -/
def Machine.Command.wf : Machine.Command → Bool
  | .recWrite a _ => a < Config.recSize
  | .recRead a => a < Config.recSize
  | .loadSlice _ k => k < Config.nVoices
  | .loadSlot _ slot => 1 ≤ slot ∧ slot ≤ Config.nVoices
  | _ => true

end Sys2Proof
end

