-- ==== Sys2Proof/Decode.lean ====
section
/-!
DEFINITION. The extractor table (30_encoding.md rules R88, R107), the decoder from the bytes at a site of the record
to the instruction wired there, and the encoder.

No extractor matches on constant bits: "which extractor reads a byte is decided by the byte's offset, never by its
contents" (R107). So what the decoder is given is a SITE (which row of the table, and for a slice-relative row which
slice) together with the byte or bytes found there.
-/

namespace Sys2Proof

/-- Whether a row's offset counts from the start of an operator slice or of the record (R107, key `space`). -/
inductive Space where
  | slice
  | record
deriving DecidableEq, Repr

/-- One row of the extractor table: its mnemonic, where it reads, which bits (`hi`, `lo`) it reads of each byte there,
how many bytes, and the strap value it belongs to (R107). -/
structure Row where
  mnemonic : String
  space    : Space
  offset   : Nat
  fields   : List (Nat × Nat)
  length   : Nat := 1
  strap    : Option PmsSource := none
deriving DecidableEq, Repr

/-- The 21 operator rows, in the table's order (R88). -/
def operatorRows : List Row :=
  [ ⟨"XEGR", .slice, 0, [(7, 0)], 1, none⟩, ⟨"XEGR", .slice, 1, [(7, 0)], 1, none⟩,
    ⟨"XEGR", .slice, 2, [(7, 0)], 1, none⟩, ⟨"XEGR", .slice, 3, [(7, 0)], 1, none⟩,
    ⟨"XEGL", .slice, 4, [(7, 0)], 1, none⟩, ⟨"XEGL", .slice, 5, [(7, 0)], 1, none⟩,
    ⟨"XEGL", .slice, 6, [(7, 0)], 1, none⟩, ⟨"XEGL", .slice, 7, [(7, 0)], 1, none⟩,
    ⟨"XBP", .slice, 8, [(7, 0)], 1, none⟩, ⟨"XLD", .slice, 9, [(7, 0)], 1, none⟩,
    ⟨"XRD", .slice, 10, [(7, 0)], 1, none⟩, ⟨"XLC", .slice, 11, [(1, 0)], 1, none⟩,
    ⟨"XRC", .slice, 11, [(3, 2)], 1, none⟩, ⟨"XTUNE", .slice, 12, [(6, 3)], 1, none⟩,
    ⟨"XRS", .slice, 12, [(2, 0)], 1, none⟩, ⟨"XAMS", .slice, 13, [(1, 0)], 1, none⟩,
    ⟨"XKVS", .slice, 13, [(4, 2)], 1, none⟩, ⟨"XLVL", .slice, 14, [(7, 0)], 1, none⟩,
    ⟨"XMODE", .slice, 15, [(0, 0)], 1, none⟩, ⟨"XCOARSE", .slice, 15, [(7, 1), (0, 0)], 1, none⟩,
    ⟨"XFINE", .slice, 16, [(7, 0)], 1, none⟩ ]

/-- The 20 voice-global rows, in the table's order (R88). -/
def globalRows : List Row :=
  [ ⟨"GPEGR", .record, 102, [(7, 0)], 1, none⟩, ⟨"GPEGR", .record, 103, [(7, 0)], 1, none⟩,
    ⟨"GPEGR", .record, 104, [(7, 0)], 1, none⟩, ⟨"GPEGR", .record, 105, [(7, 0)], 1, none⟩,
    ⟨"GPEGL", .record, 106, [(7, 0)], 1, none⟩, ⟨"GPEGL", .record, 107, [(7, 0)], 1, none⟩,
    ⟨"GPEGL", .record, 108, [(7, 0)], 1, none⟩, ⟨"GPEGL", .record, 109, [(7, 0)], 1, none⟩,
    ⟨"GALG", .record, 110, [(4, 0)], 1, none⟩, ⟨"GFB", .record, 110, [(7, 5)], 1, none⟩,
    ⟨"GOSYNC", .record, 111, [(3, 3)], 1, none⟩, ⟨"GLSPD", .record, 112, [(7, 0)], 1, none⟩,
    ⟨"GLDLY", .record, 113, [(7, 0)], 1, none⟩, ⟨"GLPMD", .record, 114, [(7, 0)], 1, none⟩,
    ⟨"GLAMD", .record, 115, [(7, 0)], 1, none⟩, ⟨"GLSYNC", .record, 116, [(0, 0)], 1, none⟩,
    ⟨"GLWAVE", .record, 116, [(3, 1)], 1, none⟩, ⟨"GPMS", .record, 116, [(6, 4)], 1, some .b116Hi⟩,
    ⟨"GPMS", .record, 117, [(2, 0)], 1, some .b117Lo⟩, ⟨"GNAME", .record, 118, [(7, 0)], 10, none⟩ ]

/-- The 41 rows of the extractor table (R88, R107). -/
def rows : List Row := operatorRows ++ globalRows

/-- Where an extractor is wired: its row of `rows`, and the raw slice index of a slice-relative row (0 for a
record-relative one, which takes no slice operand, R170). -/
structure Site where
  row   : Nat
  slice : Nat
deriving DecidableEq, Repr

/-- Why a decode is rejected. -/
inductive DecodeError where
  /-- The table has 41 rows. -/
  | noSuchRow (row : Nat)
  /-- Slice-relative rows exist for slices 0 to 5, record-relative ones once (R130, R170). -/
  | noSuchSlice (slice : Nat)
  /-- A row reads one byte, `GNAME` ten (R107, key `length`). -/
  | wrongLength (n : Nat)
deriving DecidableEq, Repr

/-- A site that exists: one of 21 operator rows in slices 0 to 5, or one of 20 global rows (R88). -/
def Site.wf (site : Site) : Bool :=
  if site.row < 21 then site.slice < 6 else site.row < 41 && site.slice = 0

/-- `b[lo+w-1 : lo]`, the field of width `w` whose lowest bit is bit `lo` (00_scope.md section 4, R93). -/
def field (b : Byte) (lo w : Nat) : BitVec w := b.extractLsb' lo w

/-- The instruction of an operator row for slice `i` and the byte found there (R83 to R87). -/
def decodeOperator (row : Nat) (i : Fin 6) (b : Byte) : Except DecodeError Instr :=
  match row with
  | 0 => .ok (.xegr i 0 b)
  | 1 => .ok (.xegr i 1 b)
  | 2 => .ok (.xegr i 2 b)
  | 3 => .ok (.xegr i 3 b)
  | 4 => .ok (.xegl i 0 b)
  | 5 => .ok (.xegl i 1 b)
  | 6 => .ok (.xegl i 2 b)
  | 7 => .ok (.xegl i 3 b)
  | 8 => .ok (.xbp i b)
  | 9 => .ok (.xld i b)
  | 10 => .ok (.xrd i b)
  | 11 => .ok (.xlc i (field b 0 2))
  | 12 => .ok (.xrc i (field b 2 2))
  | 13 => .ok (.xtune i (field b 3 4))
  | 14 => .ok (.xrs i (field b 0 3))
  | 15 => .ok (.xams i (field b 0 2))
  | 16 => .ok (.xkvs i (field b 2 3))
  | 17 => .ok (.xlvl i b)
  | 18 => .ok (.xmode i (field b 0 1))
  | 19 => .ok (.xcoarse i (field b 1 7) (field b 0 1))
  | 20 => .ok (.xfine i b)
  | n => .error (.noSuchRow n)

/-- The instruction of a one-byte voice-global row and the byte found there (R82, R89 to R92). -/
def decodeGlobal (row : Nat) (b : Byte) : Except DecodeError Instr :=
  match row with
  | 21 => .ok (.gpegr 0 b)
  | 22 => .ok (.gpegr 1 b)
  | 23 => .ok (.gpegr 2 b)
  | 24 => .ok (.gpegr 3 b)
  | 25 => .ok (.gpegl 0 b)
  | 26 => .ok (.gpegl 1 b)
  | 27 => .ok (.gpegl 2 b)
  | 28 => .ok (.gpegl 3 b)
  | 29 => .ok (.galg (field b 0 5))
  | 30 => .ok (.gfb (field b 5 3))
  | 31 => .ok (.gosync (field b 3 1))
  | 32 => .ok (.glspd b)
  | 33 => .ok (.gldly b)
  | 34 => .ok (.glpmd b)
  | 35 => .ok (.glamd b)
  | 36 => .ok (.glsync (field b 0 1))
  | 37 => .ok (.glwave (field b 1 3))
  | 38 => .ok (.gpms .b116Hi (field b 4 3))
  | 39 => .ok (.gpms .b117Lo (field b 0 3))
  | n => .error (.noSuchRow n)

/-- The instruction of the `GNAME` row and its ten bytes, ascending (R97, R184). -/
def decodeName (bytes : List Byte) : Except DecodeError Instr :=
  if h : bytes.length = 10 then
    .ok (.gname ⟨bytes.toArray, by simp [h]⟩)
  else .error (.wrongLength bytes.length)

/-- The decoder: total on any site and any bytes, rejecting by name. No byte value is rejected (R99). -/
def decode (site : Site) (bytes : List Byte) : Except DecodeError Instr :=
  if site.row < 21 then
    if h : site.slice < 6 then
      match bytes with
      | [b] => decodeOperator site.row ⟨site.slice, h⟩ b
      | bs => .error (.wrongLength bs.length)
    else .error (.noSuchSlice site.slice)
  else if site.slice = 0 then
    if site.row = 40 then decodeName bytes
    else if site.row < 40 then
      match bytes with
      | [b] => decodeGlobal site.row b
      | bs => .error (.wrongLength bs.length)
    else .error (.noSuchRow site.row)
  else .error (.noSuchSlice site.slice)

/-- A field of width `w` put at bit `lo` of an otherwise zero byte. -/
def place {w : Nat} (v : BitVec w) (lo : Nat) : Byte := v.setWidth 8 <<< lo

/-- The site an instruction is wired at (R88). -/
def Instr.site : Instr → Site
  | .xegr i j _ => ⟨j, i⟩
  | .xegl i j _ => ⟨4 + j, i⟩
  | .xbp i _ => ⟨8, i⟩
  | .xld i _ => ⟨9, i⟩
  | .xrd i _ => ⟨10, i⟩
  | .xlc i _ => ⟨11, i⟩
  | .xrc i _ => ⟨12, i⟩
  | .xtune i _ => ⟨13, i⟩
  | .xrs i _ => ⟨14, i⟩
  | .xams i _ => ⟨15, i⟩
  | .xkvs i _ => ⟨16, i⟩
  | .xlvl i _ => ⟨17, i⟩
  | .xmode i _ => ⟨18, i⟩
  | .xcoarse i _ _ => ⟨19, i⟩
  | .xfine i _ => ⟨20, i⟩
  | .gpegr j _ => ⟨21 + j, 0⟩
  | .gpegl j _ => ⟨25 + j, 0⟩
  | .galg _ => ⟨29, 0⟩
  | .gfb _ => ⟨30, 0⟩
  | .gosync _ => ⟨31, 0⟩
  | .glspd _ => ⟨32, 0⟩
  | .gldly _ => ⟨33, 0⟩
  | .glpmd _ => ⟨34, 0⟩
  | .glamd _ => ⟨35, 0⟩
  | .glsync _ => ⟨36, 0⟩
  | .glwave _ => ⟨37, 0⟩
  | .gpms .b116Hi _ => ⟨38, 0⟩
  | .gpms .b117Lo _ => ⟨39, 0⟩
  | .gname _ => ⟨40, 0⟩

/-- The encoder: the bytes of an instruction at its site, every bit its row does not read being 0 (R83 to R92). -/
def encode : Instr → List Byte
  | .xegr _ _ v => [v]
  | .xegl _ _ v => [v]
  | .xbp _ v => [v]
  | .xld _ v => [v]
  | .xrd _ v => [v]
  | .xlc _ l => [place l 0]
  | .xrc _ r => [place r 2]
  | .xtune _ t => [place t 3]
  | .xrs _ r => [place r 0]
  | .xams _ a => [place a 0]
  | .xkvs _ k => [place k 2]
  | .xlvl _ v => [v]
  | .xmode _ m => [place m 0]
  | .xcoarse _ c m => [place c 1 ||| place m 0]
  | .xfine _ v => [v]
  | .gpegr _ v => [v]
  | .gpegl _ v => [v]
  | .galg a => [place a 0]
  | .gfb f => [place f 5]
  | .gosync o => [place o 3]
  | .glspd v => [v]
  | .gldly v => [v]
  | .glpmd v => [v]
  | .glamd v => [v]
  | .glsync b => [place b 0]
  | .glwave w => [place w 1]
  | .gpms .b116Hi p => [place p 4]
  | .gpms .b117Lo p => [place p 0]
  | .gname n => n.toList

/-- The bytes of a word of the opcode table, the first at bits 7 to 0 (the table's numbering). -/
def wordBytes (nbits w : Nat) : List Byte :=
  (List.range ((nbits + 7) / 8)).map fun k => BitVec.ofNat 8 (w >>> (8 * k))

/-- DESIGN CHOICE (notes/assumptions/1.md). The site at which a bare word of the table is decoded. A word holds no
bit that says which extractor reads it (R107), so the only thing that tells is its length: ten bytes can only be
`GNAME`'s, one byte is taken at the first site `DECODE` runs, `XEGR` of slice 0, stage 1. -/
def wordSite (nbits : Nat) : Site :=
  if (nbits + 7) / 8 = 10 then ⟨40, 0⟩ else ⟨0, 0⟩

/-- What the decoder reads from a bare word of the opcode table (notes/assumptions/1.md). -/
def decodeTableWord (nbits w : Nat) : Option Instr :=
  (decode (wordSite nbits) (wordBytes nbits w)).toOption

end Sys2Proof
end

