-- ==== Sys2Proof/Machine/State.lean ====
section
/-!
DEFINITION. The state of the PDU and of the host that drives it (10_state.md), as plain data; the state after reset;
the faults and the refusals.

The spec's own state is `rb`, `voice` and `valid` (rule R20), with the parameters the instance is built with (`params`,
R8, R10, R43). The host's side is `banks` (R22), `pending` and `replies`; `draws` is the model's own counter for the
tie rule (R206).
-/

namespace Sys2Proof.Machine

/-! ### Memory: the record buffer -/

/-- A sparse byte memory: the bytes that have a value, as (address, byte) pairs with addresses strictly rising. An
address that is not listed has NO VALUE (rules R48, R262): reading it is the fault `unwritten`. -/
abbrev Memory := List Host.Cell

/-- The canonical form: addresses strictly rising. (No listed byte can equal what an unlisted address reads as,
since that is no value at all.) -/
def Memory.wf : Memory → Bool
  | [] => true
  | [_] => true
  | c :: d :: rest => c.1 < d.1 && Memory.wf (d :: rest)

/-- Every listed address is one of `RB[0..127]` (rule R21). -/
def Memory.inRecord (m : Memory) : Bool := m.all fun c => c.1 < Config.recSize

/-! ### The output register file -/

/-- One operator bank `OP[d]`: 21 registers (rules R26 to R37), at the spec's widths. -/
structure OpBank where
  /-- `EGR[0..3]` (R26). -/
  egr      : Vector Byte 4
  /-- `EGL[0..3]` (R27). -/
  egl      : Vector Byte 4
  /-- `BP_NA`, the sentinel flag of `BP` (R28). -/
  bpNa     : Bool
  /-- `BP_IDX` (R28). -/
  bpIdx    : BitVec 7
  /-- `LD`, `RD` (R29). -/
  ld       : Byte
  rd       : Byte
  /-- `RS` (R30). -/
  rs       : BitVec 3
  /-- `LC`, `RC` (R31). -/
  lc       : BitVec 2
  rc       : BitVec 2
  /-- `TUNE`, 5 bits two's complement (R32). -/
  tune     : BitVec 5
  /-- `KVS`, `AMS` (R33). -/
  kvs      : BitVec 3
  ams      : BitVec 2
  /-- `LEVEL` (R34). -/
  level    : Byte
  /-- `MODE`, 0 RATIO, 1 FIXED (R35). -/
  mode     : BitVec 1
  /-- `COARSE_X2 = 2 * COARSE` (R36). -/
  coarseX2 : BitVec 11
  /-- `FINE_RAW` (R37). -/
  fineRaw  : Byte
deriving DecidableEq, Repr

/-- The `LFO` registers (rules R38, R39). -/
structure Lfo where
  speed    : Byte
  delay    : Byte
  pmd      : Byte
  amd      : Byte
  sync     : BitVec 1
  /-- `LFO.WAVE_CODE`: codes 6 and 7 are `WAVE_NA` (R39). -/
  waveCode : BitVec 3
deriving DecidableEq, Repr

/-- The output register file, which holds one Voice: `OP[0]` (OP1) to `OP[5]` (OP6) and the 19 voice-global
registers (rules R25, R38 to R40). -/
structure Voice where
  op      : Vector OpBank 6
  pegr    : Vector Byte 4
  pegl    : Vector Byte 4
  /-- `ALG`, 1 to 32 in 6 bits. -/
  alg     : BitVec 6
  fb      : BitVec 3
  osync   : BitVec 1
  lfo     : Lfo
  pms     : BitVec 3
  /-- `NAME[0..9]` (R40). -/
  name    : Vector Code 10
  /-- `NAME_LEN` (R40). -/
  nameLen : BitVec 4
deriving DecidableEq, Repr

/-- DESIGN CHOICE (notes/assumptions/2.md): what the operator registers hold while they have "no value" (R48). -/
def OpBank.blank : OpBank where
  egr := Vector.replicate 4 0
  egl := Vector.replicate 4 0
  bpNa := false
  bpIdx := 0
  ld := 0
  rd := 0
  rs := 0
  lc := 0
  rc := 0
  tune := 0
  kvs := 0
  ams := 0
  level := 0
  mode := 0
  coarseX2 := 0
  fineRaw := 0

/-- DESIGN CHOICE (notes/assumptions/2.md): what the output registers hold while they have "no value" (R48). No
`READ` shows it: `READ` faults while `VALID = 0` (R193). -/
def Voice.blank : Voice where
  op := Vector.replicate 6 OpBank.blank
  pegr := Vector.replicate 4 0
  pegl := Vector.replicate 4 0
  alg := 0
  fb := 0
  osync := 0
  lfo := { speed := 0, delay := 0, pmd := 0, amd := 0, sync := 0, waveCode := 0 }
  pms := 0
  name := Vector.replicate 10 0
  nameLen := 0

/-! ### The whole state -/

/-- The state of the PDU and its host. -/
structure State where
  /-- `RB[0..127]`, the record buffer (R21). -/
  rb      : Memory
  /-- The output register file (R25). -/
  voice   : Voice
  /-- `VALID`, bit 0 of `STATUS` (R23, R43). -/
  valid   : Bool
  /-- The strap `PMS_SOURCE` and the set `WS`: never written (R8, R43, R272; notes/assumptions/3.md). -/
  params  : Params
  /-- The MODEL's own: how many ties have been drawn (R206; notes/assumptions/4.md). -/
  draws   : Nat
  /-- Host memory: the banks that `VALIDATE` has accepted, the last one first (R22, R112, R116, R268;
  notes/assumptions/8.md). -/
  banks   : List (List Byte)
  /-- The host's commands not yet issued, the next one first (R71; notes/assumptions/5.md). -/
  pending : List Command
  /-- What the host has been told, oldest first (notes/assumptions/5.md). -/
  replies : List Reply
deriving DecidableEq, Repr

/-- The state in which an instance begins to exist, which is the state `RESET` leaves (R48, R261), under the default
parameters, with a host that has done nothing. -/
def State.reset : State where
  rb := []
  voice := Voice.blank
  valid := false
  params := Config.defaultParams
  draws := 0
  banks := []
  pending := []
  replies := []

/-! ### Why a step can stop -/

/-- The faults. -/
inductive Fault where
  /-- `Unwritten`, the spec's code 3 (R247): a `READ` of an output register, or `FINE` or `FINEDEC`, while
  `VALID = 0`; a `DECODE`, or a read of `RB`, that meets a byte never written since `RESET`. Safe: the spec makes the
  model stop here. -/
  | unwritten
  /-- A host access to a record address beyond `RB[127]`, which does not exist (R21, R60). Safe: no such address. -/
  | noSuchAddress (a : Nat)
deriving DecidableEq, Repr

/-- The spec's code of a fault (R247); the address fault has none. -/
def Fault.code : Fault → Option Nat
  | .unwritten => some 3
  | .noSuchAddress _ => none

/-- The refusals. -/
inductive Refusal where
  /-- An instruction without a meaning yet. None is left. Safe. -/
  | notModelled (mnemonic : String)
  /-- `SLICE` with an index outside 0 to 31, which is outside the loader's contract: "a model refuses it" (R114).
  Safe. -/
  | sliceOutOfRange (k : Nat)
  /-- `SLICE` of a bank that `VALIDATE` has not accepted, its precondition (R112, R114, R268). Safe. -/
  | bankNotAccepted
  /-- The decoder rejected what it was given. The sites `DECODE` is wired to never do. Safe. -/
  | undecodable (why : DecodeError)
deriving DecidableEq, Repr

end Sys2Proof.Machine
end

