-- ==== Sys2Proof/Machine/Operands.lean ====
section
/-!
DEFINITION. Addresses and operand forms: the effective address of an operator field and of a bank byte (20_memory.md
rules R63, R64), the order reversal (41_operator_decode.md rule R149), the bytes a site reads, the hardwired list of
sites that `DECODE` runs (42_global_decode.md rule R192), and the register each instruction writes (30_encoding.md
rule R88).
-/

namespace Sys2Proof.Machine

/-- `RB` address of the byte at offset `f` of the slice with raw index `i` (R63). -/
def sliceAddr (i f : Nat) : Nat := Config.opsSize * i + f

/-- `BANK` address of byte `a` of record `k` (R64). -/
def bankAddr (k a : Nat) : Nat := Config.recBase + Config.recSize * k + a

/-- The display index of the slice with raw index `i`, `d = 5 - i` (R149): the format stores operator 6 first. -/
def displayIndex (i : Fin 6) : Fin 6 := ⟨5 - i, by omega⟩

/-- The first `RB` address a site reads (R62, R88). -/
def siteAddr (site : Site) : Nat :=
  match rows[site.row]? with
  | some r => match r.space with
    | .slice => sliceAddr site.slice r.offset
    | .record => r.offset
  | none => 0

/-- How many bytes a site reads (R88). -/
def siteLength (site : Site) : Nat := ((rows[site.row]?).map Row.length).getD 0

/-- `DECOP(i)`: the 21 sites of slice `i` (R150). -/
def operatorSites (i : Nat) : List Site := (List.range 21).map fun r => ⟨r, i⟩

/-- Whether a row belongs to an instance with this strap (R88, R183). -/
def rowWired (strap : PmsSource) (r : Nat) : Bool :=
  match rows[r]? with
  | some row => row.strap.all (· = strap)
  | none => false

/-- The voice-global sites an instance with this strap is wired with: one of the two `GPMS` rows, every other row. -/
def globalSites (strap : PmsSource) : List Site :=
  ((List.range' 21 20).filter (rowWired strap)).map fun r => ⟨r, 0⟩

/-- The hardwired extractors of an instance, in the order R192 lists them: 6 × 21 + 19 = 145 sites (R88). Their order
is not observable (R24). -/
def wiredSites (strap : PmsSource) : List Site :=
  (List.range 6).flatMap operatorSites ++ globalSites strap

/-- The register an instruction writes (R88). -/
def dest : Instr → OutReg
  | .xegr i j _ => .egr (displayIndex i) j
  | .xegl i j _ => .egl (displayIndex i) j
  | .xbp i _ => .bp (displayIndex i)
  | .xld i _ => .ld (displayIndex i)
  | .xrd i _ => .rd (displayIndex i)
  | .xlc i _ => .lc (displayIndex i)
  | .xrc i _ => .rc (displayIndex i)
  | .xtune i _ => .tune (displayIndex i)
  | .xrs i _ => .rs (displayIndex i)
  | .xams i _ => .ams (displayIndex i)
  | .xkvs i _ => .kvs (displayIndex i)
  | .xlvl i _ => .level (displayIndex i)
  | .xmode i _ => .mode (displayIndex i)
  | .xcoarse i _ _ => .coarse (displayIndex i)
  | .xfine i _ => .fineRaw (displayIndex i)
  | .gpegr j _ => .pegr j
  | .gpegl j _ => .pegl j
  | .galg _ => .alg
  | .gfb _ => .fb
  | .gosync _ => .osync
  | .glspd _ => .lfoSpeed
  | .gldly _ => .lfoDelay
  | .glpmd _ => .lfoPmd
  | .glamd _ => .lfoAmd
  | .glsync _ => .lfoSync
  | .glwave _ => .lfoWave
  | .gpms _ _ => .pms
  | .gname _ => .name

/-- The 145 output registers (R25): six banks of 21, then 19. -/
def allRegs : List OutReg :=
  (List.finRange 6).flatMap (fun d =>
    (List.finRange 4).map (.egr d) ++ (List.finRange 4).map (.egl d) ++
      [.bp d, .ld d, .rd d, .lc d, .rc d, .tune d, .rs d, .ams d, .kvs d, .level d, .mode d, .coarse d, .fineRaw d])
  ++ (List.finRange 4).map .pegr ++ (List.finRange 4).map .pegl
  ++ [.alg, .fb, .osync, .lfoSpeed, .lfoDelay, .lfoPmd, .lfoAmd, .lfoSync, .lfoWave, .pms, .name]

/-- The slot number of a record index and back (R115): `slot = k + 1`. -/
def slotOfIndex (k : Nat) : Nat := k + 1

/-- The record index of a slot number, 1 to 32 (R115). -/
def indexOfSlot (slot : Nat) : Option Nat :=
  if 1 ≤ slot ∧ slot ≤ Config.nVoices then some (slot - 1) else none

end Sys2Proof.Machine
end

