-- ==== Sys2Proof/Machine/Flags.lean ====
section
/-!
DEFINITION. The one-bit statuses of the PDU (10_state.md rules R23, R28, R39, R42, R43). There are no condition codes
and no arithmetic flags.
-/

namespace Sys2Proof.Machine

/-- `BP_NA`: the record byte lies outside the note table's 0 to 99 (R42, R136). -/
def bpNaOf (b : Byte) : Bool := Config.bpMax < b.toNat

/-- `BP_IDX`: the byte when it is in range, 0 beside the sentinel (R28, R136). -/
def bpIdxOf (b : Byte) : BitVec 7 := if bpNaOf b then 0 else b.setWidth 7

/-- The predicate `LFO.WAVE = WAVE_NA`: codes 6 and 7 (R39, R42, R182). -/
def waveNa (code : BitVec 3) : Bool := 5 < code.toNat

/-- The value of `LFO.WAVE` for a code: `wave(w)` or the sentinel (R39, R182). -/
def waveOf (code : BitVec 3) : Option Nat := if waveNa code then none else some code.toNat

/-- `STATUS`: `VALID` in bit 0, bits 7 to 1 read as 0 (R43, R193). -/
def State.status (s : State) : Byte := if s.valid then 1 else 0

end Sys2Proof.Machine
end

