-- ==== Sys2Proof/Machine/Ops.lean ====
section
/-!
DEFINITION. The named operations every meaning is written with: reading and writing the record buffer, writing an
output register, reading one, answering the host, and the host's rejection. The PDU has no exception, no trap and no
return (60_exceptions.md rules R240, R245, R246): the one thing beside a normal step is a rejection by the host's
loader, `State.rejectBank`, which changes nothing in the PDU.
-/

namespace Sys2Proof.Machine

/-! ### The record buffer -/

/-- `RecRead(a)` on the buffer's contents: the byte at `a`, or nothing where nothing has been written. -/
def Memory.read : Memory → Nat → Option Byte
  | [], _ => none
  | c :: rest, a => if c.1 = a then some c.2 else Memory.read rest a

/-- `RecWrite(a, v)`: keeps the addresses strictly rising. -/
def Memory.write : Memory → Nat → Byte → Memory
  | [], a, v => [(a, v)]
  | c :: rest, a, v =>
    if a < c.1 then (a, v) :: c :: rest
    else if a = c.1 then (a, v) :: rest
    else c :: Memory.write rest a v

/-- The `n` bytes from address `a` on, if all of them have a value. -/
def Memory.readBytes (m : Memory) (a : Nat) : Nat → Option (List Byte)
  | 0 => some []
  | n + 1 =>
    match m.read a, m.readBytes (a + 1) n with
    | some b, some bs => some (b :: bs)
    | _, _ => none

/-- `LOAD`'s loop: `RecWrite(a, rec[a])` for the given bytes from address `a` on, ascending (R191). -/
def Memory.writeBytes (m : Memory) (a : Nat) : List Byte → Memory
  | [] => m
  | b :: bs => Memory.writeBytes (m.write a b) (a + 1) bs

/-- All 128 bytes of `RB` have been written since `RESET` (R192's precondition, R265, R270). -/
def Memory.complete (m : Memory) : Bool :=
  (List.range Config.recSize).all fun a => (m.read a).isSome

/-- The 128 bytes of a complete `RB`, ascending. -/
def Memory.record (m : Memory) : Option (List Byte) := m.readBytes 0 Config.recSize

/-- A host write to `RB` (R191): the address must exist (notes/assumptions/7.md). -/
def State.writeRec (s : State) (a : Nat) (v : Byte) : Host.Outcome State Fault Refusal :=
  if a < Config.recSize then .next { s with rb := s.rb.write a v } else .fault (.noSuchAddress a)

/-- `LOAD rec` (R191): all 128 bytes, and nothing but `RB`. -/
def State.loadRec (s : State) (record : Vector Byte 128) : State :=
  { s with rb := s.rb.writeBytes 0 record.toList }

/-! ### Writing an output register -/

/-- Change a register of the operator bank with display index `d`. -/
def State.modifyOp (s : State) (d : Fin 6) (f : OpBank → OpBank) : State :=
  { s with voice := { s.voice with op := s.voice.op.set d (f s.voice.op[d]) } }

/-- Change a voice-global register. -/
def State.modifyVoice (s : State) (f : Voice → Voice) : State := { s with voice := f s.voice }

/-- Change a register of the `LFO` group. -/
def State.modifyLfo (s : State) (f : Lfo → Lfo) : State :=
  s.modifyVoice fun v => { v with lfo := f v.lfo }

/-! ### What an extractor makes of its field -/

/-- `TUNE = DT - 7`, as the 5-bit two's complement register (R94, R141). -/
def tuneOf (dt : BitVec 4) : BitVec 5 := BitVec.ofInt 5 (dt.toNat - Config.tuneBias)

/-- `ALG = AL + 1`, in 6 bits, so that 31 gives 32 (R94, R173). -/
def algOf (al : BitVec 5) : BitVec 6 := BitVec.ofNat 6 (al.toNat + 1)

/-- `COARSE_X2`, twice the resolved coarse value (R36, R96, R147): in RATIO 1/2 for selector 0 and the selector
otherwise, all seven bits of it; in FIXED the multiplier of its low two bits. -/
def coarseX2Of (cs : BitVec 7) (mode : BitVec 1) : BitVec 11 :=
  if mode = 0 then
    if cs = 0 then 1 else BitVec.ofNat 11 (2 * cs.toNat)
  else BitVec.ofNat 11 (2 * Config.fixmult (cs.extractLsb' 0 2).toNat)

/-- `GNAME`'s first loop: drop bytes 128 to 255, keep the rest as 7-bit codes in order (R184). -/
def keepAscii (bytes : List Byte) : List Code :=
  (bytes.filter fun b => b.toNat ≤ 127).map fun b => b.setWidth 7

/-- `GNAME`'s second and third loops: trim members of `WS` from the front and from the back (R97, R184). -/
def trimWs (ws : List Code) (t : List Code) : List Code :=
  ((t.dropWhile ws.contains).reverse.dropWhile ws.contains).reverse

/-- The name's codes, 0 to 10 of them (R184). -/
def nameOf (ws : List Code) (bytes : List Byte) : List Code := trimWs ws (keepAscii bytes)

/-- `NAME[0..9]`: the codes, then 0 (R40, R184). -/
def nameCells (t : List Code) : Vector Code 10 := Vector.ofFn fun k => t.getD k 0

/-! ### Reading an output register -/

/-- `COARSE` as the exact rational (R36). -/
def OpBank.coarse (o : OpBank) : Rat := (o.coarseX2.toNat : Rat) / 2

/-- The value of an output register (R26 to R40, R193). -/
def readReg (v : Voice) : OutReg → RegValue
  | .egr d j => .unsigned (v.op[d].egr[j]).toNat
  | .egl d j => .unsigned (v.op[d].egl[j]).toNat
  | .bp d => .breakPoint v.op[d].bpNa v.op[d].bpIdx.toNat
  | .ld d => .unsigned v.op[d].ld.toNat
  | .rd d => .unsigned v.op[d].rd.toNat
  | .lc d => .unsigned v.op[d].lc.toNat
  | .rc d => .unsigned v.op[d].rc.toNat
  | .tune d => .signed v.op[d].tune.toInt
  | .rs d => .unsigned v.op[d].rs.toNat
  | .ams d => .unsigned v.op[d].ams.toNat
  | .kvs d => .unsigned v.op[d].kvs.toNat
  | .level d => .unsigned v.op[d].level.toNat
  | .mode d => .unsigned v.op[d].mode.toNat
  | .coarse d => .rational v.op[d].coarse
  | .fineRaw d => .unsigned v.op[d].fineRaw.toNat
  | .pegr j => .unsigned (v.pegr[j]).toNat
  | .pegl j => .unsigned (v.pegl[j]).toNat
  | .alg => .unsigned v.alg.toNat
  | .fb => .unsigned v.fb.toNat
  | .osync => .unsigned v.osync.toNat
  | .lfoSpeed => .unsigned v.lfo.speed.toNat
  | .lfoDelay => .unsigned v.lfo.delay.toNat
  | .lfoPmd => .unsigned v.lfo.pmd.toNat
  | .lfoAmd => .unsigned v.lfo.amd.toNat
  | .lfoSync => .unsigned v.lfo.sync.toNat
  | .lfoWave => .wave (waveOf v.lfo.waveCode)
  | .pms => .unsigned v.pms.toNat
  | .name => .name v.nameLen.toNat v.name.toList

/-! ### Answering the host -/

/-- The host is told something; nothing in the PDU changes (R67, R193). -/
def State.reply (s : State) (r : Reply) : State := { s with replies := s.replies ++ [r] }

/-- A rejection (R241 to R246): the host is told, and the banks accepted earlier stay accepted, since only the
rejected one is barred (R112) and there is nothing to restore (R246). Where the bank could not be read at all the host
issues no further command (R117, R242, R246; DESIGN CHOICE, notes/assumptions/8.md). It is not a trap: no state of the
PDU changes (R112, R245). -/
def State.rejectBank (s : State) (why : Rejection) : State :=
  match why with
  | .invalidBank => s.reply (.rejected why)
  | .sourceUnreadable => { s.reply (.rejected why) with pending := [] }

end Sys2Proof.Machine
end

