-- ==== Sys2Proof/Machine/Global.lean ====
section
/-!
DEFINITION. The thirteen voice-global extractors (42_global_decode.md). Each writes one voice-global register and
never stops (60_exceptions.md rule R240).
-/

namespace Sys2Proof.Machine

/-- `GPEGR j` (R171). -/
def execGpegr (j : Fin 4) (v : Byte) (s : State) : Host.Outcome State Fault Refusal :=
  .next (s.modifyVoice fun w => { w with pegr := w.pegr.set j v })

/-- `GPEGL j` (R172). -/
def execGpegl (j : Fin 4) (v : Byte) (s : State) : Host.Outcome State Fault Refusal :=
  .next (s.modifyVoice fun w => { w with pegl := w.pegl.set j v })

/-- `GALG` (R173): `ALG <- AL + 1`, 1 to 32. -/
def execGalg (a : BitVec 5) (s : State) : Host.Outcome State Fault Refusal :=
  .next (s.modifyVoice fun w => { w with alg := algOf a })

/-- `GFB` (R174). -/
def execGfb (f : BitVec 3) (s : State) : Host.Outcome State Fault Refusal :=
  .next (s.modifyVoice fun w => { w with fb := f })

/-- `GOSYNC` (R175). -/
def execGosync (o : BitVec 1) (s : State) : Host.Outcome State Fault Refusal :=
  .next (s.modifyVoice fun w => { w with osync := o })

/-- `GLSPD` (R176). -/
def execGlspd (v : Byte) (s : State) : Host.Outcome State Fault Refusal :=
  .next (s.modifyLfo fun l => { l with speed := v })

/-- `GLDLY` (R177). -/
def execGldly (v : Byte) (s : State) : Host.Outcome State Fault Refusal :=
  .next (s.modifyLfo fun l => { l with delay := v })

/-- `GLPMD` (R178). -/
def execGlpmd (v : Byte) (s : State) : Host.Outcome State Fault Refusal :=
  .next (s.modifyLfo fun l => { l with pmd := v })

/-- `GLAMD` (R179). -/
def execGlamd (v : Byte) (s : State) : Host.Outcome State Fault Refusal :=
  .next (s.modifyLfo fun l => { l with amd := v })

/-- `GLSYNC` (R180). -/
def execGlsync (b : BitVec 1) (s : State) : Host.Outcome State Fault Refusal :=
  .next (s.modifyLfo fun l => { l with sync := b })

/-- `GLWAVE` (R182): the raw code is kept; codes 6 and 7 read as `WAVE_NA` (`waveOf`). -/
def execGlwave (w : BitVec 3) (s : State) : Host.Outcome State Fault Refusal :=
  .next (s.modifyLfo fun l => { l with waveCode := w })

/-- `GPMS` (R183): "if PMS_SOURCE = B116_HI then PMS <- ...; if PMS_SOURCE = B117_LO then PMS <- ...": the field of
the row that belongs to the instance's strap is written, the other row's is not. -/
def execGpms (src : PmsSource) (p : BitVec 3) (s : State) : Host.Outcome State Fault Refusal :=
  .next (if s.params.pmsSource = src then s.modifyVoice fun w => { w with pms := p } else s)

/-- `GNAME` (R184): drop bytes of 128 and more, trim `WS`, store the length and the codes, 0 beyond them. -/
def execGname (n : Vector Byte 10) (s : State) : Host.Outcome State Fault Refusal :=
  let t := nameOf s.params.ws n.toList
  .next (s.modifyVoice fun w => { w with name := nameCells t, nameLen := BitVec.ofNat 4 t.length })

end Sys2Proof.Machine
end

