-- ==== Sys2Proof/Machine/Operator.lean ====
section
/-!
DEFINITION. The fifteen operator extractors (41_operator_decode.md). Each writes one register of the bank
`OP[5 - i]`, where `i` is the raw slice index (rules R130, R149), and never stops (R240).
-/

namespace Sys2Proof.Machine

/-- `XEGR j` (R131): `EGR[j] <- s[j]`, unchanged. -/
def execXegr (i : Fin 6) (j : Fin 4) (v : Byte) (s : State) : Host.Outcome State Fault Refusal :=
  .next (s.modifyOp (displayIndex i) fun o => { o with egr := o.egr.set j v })

/-- `XEGL j` (R132): `EGL[j] <- s[4 + j]`, unchanged. -/
def execXegl (i : Fin 6) (j : Fin 4) (v : Byte) (s : State) : Host.Outcome State Fault Refusal :=
  .next (s.modifyOp (displayIndex i) fun o => { o with egl := o.egl.set j v })

/-- `XBP` (R136): a byte at most 99 is the index, a greater one gives the sentinel `BP_NA`. -/
def execXbp (i : Fin 6) (v : Byte) (s : State) : Host.Outcome State Fault Refusal :=
  .next (s.modifyOp (displayIndex i) fun o => { o with bpNa := bpNaOf v, bpIdx := bpIdxOf v })

/-- `XLD` (R137). -/
def execXld (i : Fin 6) (v : Byte) (s : State) : Host.Outcome State Fault Refusal :=
  .next (s.modifyOp (displayIndex i) fun o => { o with ld := v })

/-- `XRD` (R138). -/
def execXrd (i : Fin 6) (v : Byte) (s : State) : Host.Outcome State Fault Refusal :=
  .next (s.modifyOp (displayIndex i) fun o => { o with rd := v })

/-- `XLC` (R139). -/
def execXlc (i : Fin 6) (l : BitVec 2) (s : State) : Host.Outcome State Fault Refusal :=
  .next (s.modifyOp (displayIndex i) fun o => { o with lc := l })

/-- `XRC` (R140). -/
def execXrc (i : Fin 6) (r : BitVec 2) (s : State) : Host.Outcome State Fault Refusal :=
  .next (s.modifyOp (displayIndex i) fun o => { o with rc := r })

/-- `XTUNE` (R141): `TUNE <- DT - 7`, -7 to +8. -/
def execXtune (i : Fin 6) (t : BitVec 4) (s : State) : Host.Outcome State Fault Refusal :=
  .next (s.modifyOp (displayIndex i) fun o => { o with tune := tuneOf t })

/-- `XRS` (R142). -/
def execXrs (i : Fin 6) (r : BitVec 3) (s : State) : Host.Outcome State Fault Refusal :=
  .next (s.modifyOp (displayIndex i) fun o => { o with rs := r })

/-- `XAMS` (R143). -/
def execXams (i : Fin 6) (a : BitVec 2) (s : State) : Host.Outcome State Fault Refusal :=
  .next (s.modifyOp (displayIndex i) fun o => { o with ams := a })

/-- `XKVS` (R144). -/
def execXkvs (i : Fin 6) (k : BitVec 3) (s : State) : Host.Outcome State Fault Refusal :=
  .next (s.modifyOp (displayIndex i) fun o => { o with kvs := k })

/-- `XLVL` (R145). -/
def execXlvl (i : Fin 6) (v : Byte) (s : State) : Host.Outcome State Fault Refusal :=
  .next (s.modifyOp (displayIndex i) fun o => { o with level := v })

/-- `XMODE` (R146): 0 RATIO, 1 FIXED. -/
def execXmode (i : Fin 6) (m : BitVec 1) (s : State) : Host.Outcome State Fault Refusal :=
  .next (s.modifyOp (displayIndex i) fun o => { o with mode := m })

/-- `XCOARSE` (R147): the resolved coarse value, from the selector and the mode bit of the same byte. -/
def execXcoarse (i : Fin 6) (c : BitVec 7) (m : BitVec 1) (s : State) : Host.Outcome State Fault Refusal :=
  .next (s.modifyOp (displayIndex i) fun o => { o with coarseX2 := coarseX2Of c m })

/-- `XFINE` (R148). -/
def execXfine (i : Fin 6) (v : Byte) (s : State) : Host.Outcome State Fault Refusal :=
  .next (s.modifyOp (displayIndex i) fun o => { o with fineRaw := v })

end Sys2Proof.Machine
end

