-- ==== Sys2Proof/Machine/Dispatch.lean ====
section
/-!
DEFINITION. The dispatch of an extractor to its meaning: one arm per constructor of `Instr`.
-/

namespace Sys2Proof.Machine

def exec (instr : Instr) (s : State) : Host.Outcome State Fault Refusal :=
  match instr with
  | .xegr i j v => Sys2Proof.Machine.execXegr i j v s
  | .xegl i j v => Sys2Proof.Machine.execXegl i j v s
  | .xbp i v => Sys2Proof.Machine.execXbp i v s
  | .xld i v => Sys2Proof.Machine.execXld i v s
  | .xrd i v => Sys2Proof.Machine.execXrd i v s
  | .xlc i l => Sys2Proof.Machine.execXlc i l s
  | .xrc i r => Sys2Proof.Machine.execXrc i r s
  | .xtune i t => Sys2Proof.Machine.execXtune i t s
  | .xrs i r => Sys2Proof.Machine.execXrs i r s
  | .xams i a => Sys2Proof.Machine.execXams i a s
  | .xkvs i k => Sys2Proof.Machine.execXkvs i k s
  | .xlvl i v => Sys2Proof.Machine.execXlvl i v s
  | .xmode i m => Sys2Proof.Machine.execXmode i m s
  | .xcoarse i c m => Sys2Proof.Machine.execXcoarse i c m s
  | .xfine i v => Sys2Proof.Machine.execXfine i v s
  | .gpegr j v => Sys2Proof.Machine.execGpegr j v s
  | .gpegl j v => Sys2Proof.Machine.execGpegl j v s
  | .galg a => Sys2Proof.Machine.execGalg a s
  | .gfb f => Sys2Proof.Machine.execGfb f s
  | .gosync o => Sys2Proof.Machine.execGosync o s
  | .glspd v => Sys2Proof.Machine.execGlspd v s
  | .gldly v => Sys2Proof.Machine.execGldly v s
  | .glpmd v => Sys2Proof.Machine.execGlpmd v s
  | .glamd v => Sys2Proof.Machine.execGlamd v s
  | .glsync b => Sys2Proof.Machine.execGlsync b s
  | .glwave w => Sys2Proof.Machine.execGlwave w s
  | .gpms src p => Sys2Proof.Machine.execGpms src p s
  | .gname n => Sys2Proof.Machine.execGname n s

end Sys2Proof.Machine
end

