-- ==== Sys2Proof/Machine/Fetch.lean ====
section
/-!
DEFINITION. How the bytes of the record buffer reach the extractors: `DECODE` applies the hardwired set of extractors
to `RB` (10_state.md rule R24, 42_global_decode.md rule R192). There is no program counter; the record plays the part
of the program (95_test_vectors.md part 3).
-/

namespace Sys2Proof.Machine

/-- What one wired extractor takes from `RB`: its bytes, decoded at its site. A byte that was never written has no
value: fault `unwritten` (R247). -/
def fetch (rb : Memory) (site : Site) : Host.Outcome Instr Fault Refusal :=
  match rb.readBytes (siteAddr site) (siteLength site) with
  | none => .fault .unwritten
  | some bytes =>
    match decode site bytes with
    | .ok i => .next i
    | .error e => .refused (.undecodable e)

/-- The instructions of a list of sites. -/
def fetchAll (rb : Memory) : List Site → Host.Outcome (List Instr) Fault Refusal
  | [] => .next []
  | site :: rest =>
    match fetch rb site with
    | .next i =>
      match fetchAll rb rest with
      | .next is => .next (i :: is)
      | .fault f => .fault f
      | .refused r => .refused r
    | .fault f => .fault f
    | .refused r => .refused r

/-- The program a record is, for an instance with a given strap: one instruction for each of its 145 wired sites. -/
def fetchProgram (strap : PmsSource) (rb : Memory) : Host.Outcome (List Instr) Fault Refusal :=
  fetchAll rb (wiredSites strap)

/-- The extractors' writes, one after the other (their order is not observable, R24). -/
def execAll : List Instr → State → Host.Outcome State Fault Refusal
  | [], s => .next s
  | i :: is, s =>
    match exec i s with
    | .next t => execAll is t
    | .fault f => .fault f
    | .refused r => .refused r

/-- One wired extractor on its own: its bytes are taken from `RB`, decoded, and its register is written
(41_operator_decode.md, 42_global_decode.md). -/
def runExtractor (site : Site) (s : State) : Host.Outcome State Fault Refusal :=
  match fetch s.rb site with
  | .next i => exec i s
  | .fault f => .fault f
  | .refused r => .refused r

/-- A complete record buffer in which a word of the opcode table stands at every position, its bytes in order, a
ten-byte one in step with `NAME_OFF` (notes/assumptions/1.md): whichever row the word is of, that row's extractor
reads exactly it. -/
def recordOfWord (nbits w : Nat) : Memory :=
  let bytes := wordBytes nbits w
  let n := bytes.length
  (List.range Config.recSize).map fun a => (a, bytes.getD ((a + Config.recSize * n - Config.nameOff) % n) 0)

end Sys2Proof.Machine
end

