-- ==== Sys2Proof/Machine/Loader.lean ====
section
/-!
DEFINITION. The host's bank loader contract (40_bank_loader.md): `VALIDATE` and `SLICE`, pure functions on the bytes
the host holds.
-/

namespace Sys2Proof.Machine

/-- `VALIDATE(buf)` (R111): 4104 bytes and the signature at offsets 0 to 5. No checksum (R113). -/
def validate (buf : List Byte) : Bool :=
  buf.length = Config.bankSize && buf.take Config.signature.length = Config.signature

/-- `SLICE(buf, k)` (R114): bytes `6 + 128*k` to `6 + 128*k + 127` of an accepted bank; `k` outside 0 to 31 is
outside the contract. (An accepted bank has all those bytes, so the default 0 is never taken.) -/
def sliceBank (buf : List Byte) (k : Nat) : Option (Vector Byte 128) :=
  if k < Config.nVoices then some (Vector.ofFn fun a => buf.getD (bankAddr k a) 0) else none

end Sys2Proof.Machine
end

