-- ==== Sys2Proof/Machine/Transform.lean ====
section
/-!
DEFINITION. The two tuning-curve transforms and their decimal rounding (43_tuning_transforms.md). They are
combinational functions of three output registers of one operator bank and write nothing (rule R200).
-/

namespace Sys2Proof.Machine

/-- `FINE` of an operator bank (R201), in exact rational arithmetic. -/
def fineOf (o : OpBank) : Rat :=
  let c := o.coarse
  let n := o.fineRaw.toNat
  if o.mode = 0 then c + c * (n : Rat) / Config.ratioDiv
  else Config.fixedBase ^ n * c

/-- Whether a non-negative rational lies exactly half-way between two integers (R205). -/
def isTie (x : Rat) : Bool := x - (x.floor : Rat) = 1 / 2

/-- `ROUND(x)` for `x >= 0` (R205), with the choice at a tie as its first argument. -/
def roundNearest (tieUp : Bool) (x : Rat) : Nat :=
  let m := x.floor.toNat
  if x - (x.floor : Rat) < 1 / 2 then m
  else if 1 / 2 < x - (x.floor : Rat) then m + 1
  else if tieUp then m + 1 else m

/-- The decimal places shown: 2 in RATIO mode, 3 in FIXED mode (R204). -/
def decimalPlaces (o : OpBank) : Nat := if o.mode = 0 then Config.dpRatio else Config.dpFixed

/-- `FINE * 10^dp`, the number `FINEDEC` rounds (R204). -/
def fineScaled (o : OpBank) : Rat := fineOf o * 10 ^ decimalPlaces o

/-- `FINEDEC` (R204) with the choice at a tie as its first argument: the pair (`dp`, `q`). -/
def fineDecOf (tieUp : Bool) (o : OpBank) : Nat × Nat :=
  (decimalPlaces o, roundNearest tieUp (fineScaled o))

/-! ### Printing (R207, R210) -/

/-- The last `k` decimal digits of `q`, with leading zeros. -/
def lastDigits : Nat → Nat → List Char
  | 0, _ => []
  | k + 1, q => lastDigits k (q / 10) ++ [Nat.digitChar (q % 10)]

/-- `q / 10^dp` in decimal: integer digits without leading zeros, a full stop, exactly `dp` digits (R207). -/
def printDecimal (dp q : Nat) : List Char :=
  Nat.toDigits 10 (q / 10 ^ dp) ++ '.' :: lastDigits dp (q % 10 ^ dp)

/-- `COARSE` as displayed, to 2 places; nothing is rounded, since `2 * COARSE` is an integer (R210). -/
def printCoarse (o : OpBank) : List Char := printDecimal 2 (o.coarseX2.toNat * 50)

end Sys2Proof.Machine
end

