-- ==== Sys2Proof/Machine/Commands.lean ====
section
/-!
DEFINITION. The host commands (42_global_decode.md rules R191 to R193, 70_reset_and_hazards.md rule R261,
43_tuning_transforms.md rule R200, 40_bank_loader.md). Each is one atomic transition (20_memory.md rule R71); each
here acts on a state from whose `pending` it has already been taken (notes/assumptions/5.md).
-/

namespace Sys2Proof.Machine

/-- `RESET` (R261): `VALID`, the outputs and `RB` lose what they held; parameters and host are unchanged. -/
def cmdReset (s : State) : Host.Outcome State Fault Refusal :=
  .next { s with rb := [], voice := Voice.blank, valid := false }

/-- `LOAD rec` (R191). -/
def cmdLoad (record : Vector Byte 128) (s : State) : Host.Outcome State Fault Refusal :=
  .next (s.loadRec record)

/-- `RecWrite(a, v)` (R191). -/
def cmdRecWrite (a : Nat) (v : Byte) (s : State) : Host.Outcome State Fault Refusal := s.writeRec a v

/-- `RecRead(a)` by the host (R41): an address that exists and a byte that has a value (notes/assumptions/7.md). -/
def cmdRecRead (a : Nat) (s : State) : Host.Outcome State Fault Refusal :=
  if a < Config.recSize then
    match s.rb.read a with
    | some b => .next (s.reply (.recByte a b))
    | none => .fault .unwritten
  else .fault (.noSuchAddress a)

/-- `DECODE` (R192): with all 128 bytes of `RB` written, every wired extractor runs and `VALID <- 1`. -/
def cmdDecode (s : State) : Host.Outcome State Fault Refusal :=
  if s.rb.complete then
    match fetchProgram s.params.pmsSource s.rb with
    | .next is =>
      match execAll is s with
      | .next t => .next { t with valid := true }
      | .fault f => .fault f
      | .refused r => .refused r
    | .fault f => .fault f
    | .refused r => .refused r
  else .fault .unwritten

/-- `READ reg` (R193). -/
def cmdRead (r : OutReg) (s : State) : Host.Outcome State Fault Refusal :=
  if s.valid then .next (s.reply (.value r (readReg s.voice r))) else .fault .unwritten

/-- `READ STATUS` (R193): always allowed. -/
def cmdReadStatus (s : State) : Host.Outcome State Fault Refusal := .next (s.reply (.status s.status))

/-- Reading the strap (R43). -/
def cmdReadStrap (s : State) : Host.Outcome State Fault Refusal :=
  .next (s.reply (.strap s.params.pmsSource))

/-- `FINE(d)` (R200, R201). -/
def cmdFine (d : Fin 6) (s : State) : Host.Outcome State Fault Refusal :=
  if s.valid then .next (s.reply (.fine d (fineOf s.voice.op[d]))) else .fault .unwritten

/-- `FINEDEC(d)` (R200, R204, R206): at a tie the neighbour is a fresh draw. -/
def cmdFineDec (d : Fin 6) (s : State) : Host.Outcome State Fault Refusal :=
  if s.valid then
    let o := s.voice.op[d]
    let up := Config.tieUp s.draws (fineScaled o).floor.toNat
    let r := fineDecOf up o
    .next { s.reply (.fineDec d r.1 r.2) with draws := if isTie (fineScaled o) then s.draws + 1 else s.draws }
  else .fault .unwritten

/-- The host obtains a bank and validates it before the PDU runs (R111, R112, R117). -/
def cmdPresentBank (src : BankSource) (s : State) : Host.Outcome State Fault Refusal :=
  match src with
  | .unreadable => .next (s.rejectBank .sourceUnreadable)
  | .bytes buf =>
    if validate buf then .next { s.reply .accepted with banks := buf :: s.banks }
    else .next (s.rejectBank .invalidBank)

/-- `LOAD SLICE(buf, k)` of a bank that `VALIDATE` has accepted (R114, R116, R268). -/
def cmdLoadSlice (buf : List Byte) (k : Nat) (s : State) : Host.Outcome State Fault Refusal :=
  if s.banks.contains buf then
    match sliceBank buf k with
    | some record => .next (s.loadRec record)
    | none => .refused (.sliceOutOfRange k)
  else .refused .bankNotAccepted

/-- The same by slot number, 1 to 32 (R115, R116). -/
def cmdLoadSlot (buf : List Byte) (slot : Nat) (s : State) : Host.Outcome State Fault Refusal :=
  match indexOfSlot slot with
  | some k => cmdLoadSlice buf k s
  | none => .refused (.sliceOutOfRange slot)

/-- A command's meaning. -/
def runCommand (c : Command) (s : State) : Host.Outcome State Fault Refusal :=
  match c with
  | .reset => cmdReset s
  | .load record => cmdLoad record s
  | .recWrite a v => cmdRecWrite a v s
  | .recRead a => cmdRecRead a s
  | .decode => cmdDecode s
  | .read r => cmdRead r s
  | .readStatus => cmdReadStatus s
  | .readStrap => cmdReadStrap s
  | .fine d => cmdFine d s
  | .fineDec d => cmdFineDec d s
  | .presentBank src => cmdPresentBank src s
  | .loadSlice buf k => cmdLoadSlice buf k s
  | .loadSlot buf slot => cmdLoadSlot buf slot s

/-- The host's next command, if it has one, is taken from the queue and performed; with none the PDU does nothing
(R263). -/
def performNext (s : State) : Host.Outcome State Fault Refusal :=
  match s.pending with
  | [] => .next s
  | c :: rest => runCommand c { s with pending := rest }

/-- DESIGN CHOICE (notes/assumptions/1.md): a word of the opcode table is presented at every position of a complete
record, and `DECODE`, which runs the word's extractor on it, is the host's next command. -/
def placeWord (s : State) (nbits w : Nat) : State :=
  { s with rb := recordOfWord nbits w, pending := .decode :: s.pending }

end Sys2Proof.Machine
end

