-- ==== Sys2Proof/Machine/Step.lean ====
section
/-!
DEFINITION. One step of the machine: one host command, atomic (20_memory.md rule R71; 42_global_decode.md rule R192).
-/

namespace Sys2Proof.Machine

/-- One step: the host's next command, in full. -/
def step (s : State) : Host.Outcome State Fault Refusal := performNext s

/-- The state in which the next step runs the instruction whose word is `w` (notes/assumptions/1.md). -/
def State.withFetchWord (s : State) (nbits w : Nat) : State := placeWord s nbits w

end Sys2Proof.Machine
end

