-- ==== Sys2Proof/Machine/Report.lean ====
section
/-!
DEFINITION. What the document fixes about the consumer of the outputs, the text report (44_report_renderer.md). It is
host software, not part of `step`: pure functions of a Voice (rule R220), and `State.report`, which applies them to the
PDU's outputs. Everything the document leaves open (rule R231) is a field of `RenderParams`; where the model settles a
point of layout itself, the docstring there and notes/assumptions/11.md say DESIGN CHOICE.
-/

namespace Sys2Proof.Machine

/-- Text as a list of characters. -/
abbrev Text := List Char

/-- The eight sections (R221). -/
inductive ReportSection where
  | banner
  | identity
  | header
  | envelope
  | scaling
  | oscillator
  | performance
  | lfoPitch
deriving DecidableEq, Repr

/-- The sections in the report's order (R221). -/
def reportSections : List ReportSection :=
  [.banner, .identity, .header, .envelope, .scaling, .oscillator, .performance, .lfoPitch]

/-- The 21 rows of the four operator tables (R224 to R227). -/
inductive TableRow where
  | egr (j : Fin 4)
  | egl (j : Fin 4)
  | bp
  | ld
  | rd
  | lc
  | rc
  | mode
  | tune
  | coarse
  | fine
  | rs
  | kvs
  | ams
  | level
deriving DecidableEq, Repr

/-- The labelled items of sections 2, 3 and 8; `transpose` is the renderer's constant (R222, R223, R228). -/
inductive ReportItem where
  | bankLabel
  | slotNumber
  | voiceName
  | alg
  | fb
  | osync
  | transpose
  | wave
  | speed
  | delay
  | sync
  | pmd
  | amd
  | pms
  | pegr (j : Fin 4)
  | pegl (j : Fin 4)
deriving DecidableEq, Repr

/-- The rows of each table, in order: 8, 5, 4 and 4 (R224 to R227). -/
def ReportSection.rows : ReportSection → List TableRow
  | .envelope => (List.finRange 4).map .egr ++ (List.finRange 4).map .egl
  | .scaling => [.bp, .ld, .rd, .lc, .rc]
  | .oscillator => [.mode, .tune, .coarse, .fine]
  | .performance => [.rs, .kvs, .ams, .level]
  | .banner | .identity | .header | .lfoPitch => []

/-- The items of section 2 (R222), of the header line (R223) and of the LFO and pitch-envelope section (R228), in
order. -/
def ReportSection.items : ReportSection → List ReportItem
  | .identity => [.bankLabel, .slotNumber, .voiceName]
  | .header => [.alg, .fb, .osync, .transpose]
  | .lfoPitch => [.wave, .speed, .delay, .sync, .pmd, .amd, .pms] ++
      (List.finRange 4).map .pegr ++ (List.finRange 4).map .pegl
  | .banner | .envelope | .scaling | .oscillator | .performance => []

/-- The register a row shows in column `OP(d+1)` (R224 to R227); the derived fine value stands for `FINE_RAW` (R234). -/
def TableRow.reg (d : Fin 6) : TableRow → OutReg
  | .egr j => .egr d j
  | .egl j => .egl d j
  | .bp => .bp d
  | .ld => .ld d
  | .rd => .rd d
  | .lc => .lc d
  | .rc => .rc d
  | .mode => .mode d
  | .tune => .tune d
  | .coarse => .coarse d
  | .fine => .fineRaw d
  | .rs => .rs d
  | .kvs => .kvs d
  | .ams => .ams d
  | .level => .level d

/-- The register an item shows; label, slot number and the transpose constant show none (R222, R223, R228). -/
def ReportItem.reg : ReportItem → Option OutReg
  | .bankLabel | .slotNumber => none
  | .voiceName => some .name
  | .alg => some .alg
  | .fb => some .fb
  | .osync => some .osync
  | .transpose => none
  | .wave => some .lfoWave
  | .speed => some .lfoSpeed
  | .delay => some .lfoDelay
  | .sync => some .lfoSync
  | .pmd => some .lfoPmd
  | .amd => some .lfoAmd
  | .pms => some .pms
  | .pegr j => some (.pegr j)
  | .pegl j => some (.pegl j)

/-- Every output register a section shows (R234). -/
def ReportSection.regs (sec : ReportSection) : List OutReg :=
  sec.items.filterMap ReportItem.reg ++ sec.rows.flatMap fun row => (List.finRange 6).map fun d => row.reg d

/-- What no source supplies about the report (R231): the widths of labels, columns, rule lines and the whole, the
banner, the label strings, the corner of a table's heading line, which sections have a heading and which, the strings
of `CURVE` and `WAVE`, the words for booleans, for `WAVE_NA` and for zero tune, on which side a label is padded, which
way an odd remainder of a centred heading goes, which rule lines (`true` major, `false` minor) stand above and below a
section, what stands between the items of one line, the line terminator. -/
structure RenderParams where
  labelW      : Nat
  colW        : Nat
  ruleW       : Nat
  totalW      : Nat
  bannerText  : Text
  heading     : ReportSection → Option Text
  cornerLabel : Text
  rowLabel    : TableRow → Text
  itemLabel   : ReportItem → Text
  curveText   : Nat → Text
  waveText    : Nat → Text
  boolText    : Bool → Text
  waveNaText  : Text
  zeroTune    : Text
  padLeft     : Bool
  centreRight : Bool
  rulesAbove  : ReportSection → List Bool
  rulesBelow  : ReportSection → List Bool
  itemGap     : ReportSection → Text
  lineEnd     : Text

/-- The parameters with the spec's own strings of `CURVE` and `WAVE` (R45, R46). -/
def RenderParams.withSpecTables (p : RenderParams) : RenderParams :=
  { p with curveText := fun n => (Config.curve n).toList, waveText := fun n => (Config.wave n).toList }

/-- What `render` is given (R220): a Voice, the bank label, the slot as the record index `k` = 0 to 31 of slot `k + 1`
(R115), so that no slot outside 1 to 32 can be said; and the choices at ties of the six fine values, with which the
report is determined (R206, R232). -/
structure ReportInput where
  voice : Voice
  label : Text
  index : Fin 32
  tie   : Fin 6 → Bool

/-- The slot number shown, 1 to 32 (R115, R220). -/
def ReportInput.slot (x : ReportInput) : Nat := slotOfIndex x.index

/-- An unsigned value as it is shown. The spec gives no base and no padding for the plain values of R223 to R228:
DESIGN CHOICE (notes/assumptions/11.md), decimal without leading zeros, as R207 has it for an integer part. -/
def natText (n : Nat) : Text := Nat.toDigits 10 n

/-- `TUNE` with an explicit sign and its size as `natText` writes it; how zero is written is open (R226, R231). -/
def tuneText (p : RenderParams) (z : Int) : Text :=
  if z = 0 then p.zeroTune
  else if 0 < z then '+' :: natText z.natAbs
  else '-' :: natText z.natAbs

/-- `BP` as its note name or the sentinel's text (R28, R225). -/
def bpText (o : OpBank) : Text :=
  if o.bpNa then Config.notAvailable.toList else (Config.note o.bpIdx.toNat).toList

/-- `LFO.WAVE` as its variant's name; the text for `WAVE_NA` is open (R228). -/
def waveShown (p : RenderParams) (code : BitVec 3) : Text :=
  match waveOf code with
  | some w => p.waveText w
  | none => p.waveNaText

/-- One cell of an operator table (R224 to R227). `tieUp` is the choice at a tie of the fine value (R206). -/
def cellText (p : RenderParams) (tieUp : Bool) (o : OpBank) : TableRow → Text
  | .egr j => natText (o.egr[j]).toNat
  | .egl j => natText (o.egl[j]).toNat
  | .bp => bpText o
  | .ld => natText o.ld.toNat
  | .rd => natText o.rd.toNat
  | .lc => p.curveText o.lc.toNat
  | .rc => p.curveText o.rc.toNat
  | .mode => (if o.mode = 0 then "RATIO" else "FIXED").toList
  | .tune => tuneText p o.tune.toInt
  | .coarse => printCoarse o
  | .fine => let r := fineDecOf tieUp o; printDecimal r.1 r.2
  | .rs => natText o.rs.toNat
  | .kvs => natText o.kvs.toNat
  | .ams => natText o.ams.toNat
  | .level => natText o.level.toNat

/-- The voice name as text (R222). -/
def nameText (v : Voice) : Text := (v.name.toList.take v.nameLen.toNat).map fun c => Char.ofNat c.toNat

/-- The value of an item of section 2, of the header line or of the LFO section (R222, R223, R228). -/
def itemText (p : RenderParams) (x : ReportInput) : ReportItem → Text
  | .bankLabel => x.label
  | .slotNumber => natText x.slot
  | .voiceName => nameText x.voice
  | .alg => natText x.voice.alg.toNat
  | .fb => natText x.voice.fb.toNat
  | .osync => p.boolText (x.voice.osync = 1)
  | .transpose => "C3".toList
  | .wave => waveShown p x.voice.lfo.waveCode
  | .speed => natText x.voice.lfo.speed.toNat
  | .delay => natText x.voice.lfo.delay.toNat
  | .sync => p.boolText (x.voice.lfo.sync = 1)
  | .pmd => natText x.voice.lfo.pmd.toNat
  | .amd => natText x.voice.lfo.amd.toNat
  | .pms => natText x.voice.pms.toNat
  | .pegr j => natText (x.voice.pegr[j]).toNat
  | .pegl j => natText (x.voice.pegl[j]).toNat

/-- The label of an item: `R1` to `R4` and `L1` to `L4` for the pitch-envelope quartets (R228), open for the others
(R231). -/
def itemTitle (p : RenderParams) : ReportItem → Text
  | .pegr j => 'R' :: natText (j + 1)
  | .pegl j => 'L' :: natText (j + 1)
  | it => p.itemLabel it

/-- Spaces up to a width. -/
def spaces (w : Nat) (t : Text) : Text := List.replicate (w - t.length) ' '

/-- A parameter name truncated and padded to the label width; on which side is open (R229, R231). -/
def fitLabel (p : RenderParams) (t : Text) : Text :=
  let u := t.take p.labelW
  if p.padLeft then spaces p.labelW u ++ u else u ++ spaces p.labelW u

/-- A value left-justified in the column width (R229). -/
def fitCell (p : RenderParams) (t : Text) : Text := t ++ spaces p.colW t

/-- Trailing whitespace removed (R229). -/
def trimEnd (t : Text) : Text := (t.reverse.dropWhile Char.isWhitespace).reverse

/-- A line of an operator table: the label, then a text in each of six columns (R229). -/
def columnsLine (p : RenderParams) (label : Text) (cell : Fin 6 → Text) : Text :=
  trimEnd (fitLabel p label ++ (List.finRange 6).flatMap fun d => fitCell p (cell d))

/-- The line that names the columns `OP1` to `OP6` (R224); what stands above the labels is open. -/
def titleLine (p : RenderParams) : Text := columnsLine p p.cornerLabel fun d => 'O' :: 'P' :: natText (d + 1)

/-- A row of an operator table: column `OP(d+1)` shows bank `OP[d]` (R224, R229). -/
def tableLine (p : RenderParams) (x : ReportInput) (row : TableRow) : Text :=
  columnsLine p (p.rowLabel row) fun d => cellText p (x.tie d) x.voice.op[d] row

/-- A header centred within the total width (R230); where an odd space goes is open (R231). -/
def centre (p : RenderParams) (t : Text) : Text :=
  let gap := p.totalW - t.length
  let left := if p.centreRight then (gap + 1) / 2 else gap / 2
  List.replicate left ' ' ++ t ++ List.replicate (gap - left) ' '

/-- A rule line, `=` for major and `-` for minor (R230). R230 says "fixed-width" and gives no width: DESIGN CHOICE
(notes/assumptions/11.md), one width for all rule lines, a parameter apart from the total width. -/
def ruleLine (p : RenderParams) (major : Bool) : Text := List.replicate p.ruleW (if major then '=' else '-')

/-- Items on one line, each its label and right after it its value, a gap between items. -/
def itemsLine (p : RenderParams) (x : ReportInput) (sec : ReportSection) : Text :=
  (p.itemGap sec).intercalate (sec.items.map fun it => itemTitle p it ++ itemText p x it)

/-- What a section shows between its heading and its rule lines (R222 to R228). DESIGN CHOICE
(notes/assumptions/11.md), the spec giving no layout: the banner and sections 2 and 3 are one line each; a table's
line of column names stands above its rows, in all four tables; the LFO and pitch-envelope section has one item a
line, the label fitted to the label width as in a table row (R229) and the value right after it. -/
def sectionBody (p : RenderParams) (x : ReportInput) (sec : ReportSection) : List Text :=
  match sec with
  | .banner => [centre p p.bannerText]
  | .identity | .header => [itemsLine p x sec]
  | .envelope | .scaling | .oscillator | .performance => titleLine p :: sec.rows.map (tableLine p x)
  | .lfoPitch => sec.items.map fun it => fitLabel p (itemTitle p it) ++ itemText p x it

/-- The lines of a section (R222 to R230): a centred heading if it has one, its body, and rule lines above and below.
R230 does not say where separators stand nor R221 which sections have a heading: DESIGN CHOICE
(notes/assumptions/11.md), any number of rule lines above the heading and below the body of any section, and a heading
for any section, as the parameters say. -/
def sectionLines (p : RenderParams) (x : ReportInput) (sec : ReportSection) : List Text :=
  (p.rulesAbove sec).map (ruleLine p) ++ ((p.heading sec).map (centre p)).toList ++ sectionBody p x sec ++
    (p.rulesBelow sec).map (ruleLine p)

/-- `render` (R220, R221): pure and total; the text is determined by the Voice, the label, the slot number and the
choices at ties, once the open parameters are fixed (R232). R231 leaves the line terminator open and nothing is said of
the last line: DESIGN CHOICE (notes/assumptions/11.md), the terminator ends every line, the last one too. -/
def render (p : RenderParams) (x : ReportInput) : Text :=
  (reportSections.flatMap (sectionLines p x)).flatMap fun line => line ++ p.lineEnd

/-- The report of what the PDU holds: `render` reads the output register file with `VALID = 1` (R220); while
`VALID = 0` reading it is the fault `Unwritten` (R193, R247). -/
def State.report (p : RenderParams) (tie : Fin 6 → Bool) (label : Text) (index : Fin 32) (s : State) :
    Host.Outcome Text Fault Refusal :=
  if s.valid then .next (render p { voice := s.voice, label := label, index := index, tie := tie })
  else .fault .unwritten

/-- The nine characters R233 removes, by code: backslash, slash, asterisk, question mark, colon, double quote,
less-than, greater-than, vertical bar. -/
def fileNameForbidden : List Nat := [0x5C, 0x2F, 0x2A, 0x3F, 0x3A, 0x22, 0x3C, 0x3E, 0x7C]

/-- The file name derived from a voice name (R233): the nine characters removed, then surrounding whitespace. -/
def fileName (ws : List Code) (name : List Code) : List Code :=
  trimWs ws (name.filter fun c => !fileNameForbidden.contains c.toNat)

end Sys2Proof.Machine
end

