-- ==== Sys2Proof/Safety.lean ====
section
/-!
DEFINITION. The terms claims are made in: the reference decode of a record, written with the spec's own slice
notation on integers and independent of the extractors' code; the reference text of what the report shows; the ranges of the output registers; the invariant of
the state; which record bits are read; what a step may leave unchanged; the host's duties.
-/

namespace Sys2Proof.Machine

/-! ### The reference decode (30_encoding.md rules R88, R93 to R98) -/

/-- `b[hi:lo]` of 00_scope.md section 4: `(b >> lo) mod 2^(hi-lo+1)`, an integer. -/
def bitsOf (b : Byte) (hi lo : Nat) : Nat := b.toNat / 2 ^ lo % 2 ^ (hi - lo + 1)

/-- Byte `a` of a record. -/
def byteAt (record : List Byte) (a : Nat) : Byte := record.getD a 0

/-- `RB` address of byte `f` of the slice decoded into `OP[d]` (R63). -/
def opAddr (d : Fin 6) (f : Nat) : Nat := 17 * (5 - d) + f

/-- `COARSE` from the byte at slice offset 15 (R96). -/
def coarseRef (b : Byte) : Rat :=
  if bitsOf b 0 0 = 0 then
    if bitsOf b 7 1 = 0 then 1 / 2 else (bitsOf b 7 1 : Rat)
  else (10 : Rat) ^ bitsOf b 2 1

/-- The name (R97): bytes of 128 and more deleted, then the longest prefix and the longest suffix in `WS`. -/
def nameRef (ws : List Code) (bytes : List Byte) : List Code :=
  ((((bytes.filter fun b => b < 128).map fun b => BitVec.ofNat 7 b.toNat)).dropWhile (· ∈ ws)).rdropWhile (· ∈ ws)

/-- The Voice that the extractor map of R88 assigns to 128 record bytes, register by register. -/
def specReg (p : Params) (record : List Byte) : OutReg → RegValue
  | .egr d j => .unsigned (byteAt record (opAddr d j)).toNat
  | .egl d j => .unsigned (byteAt record (opAddr d (4 + j))).toNat
  | .bp d =>
    let b := (byteAt record (opAddr d 8)).toNat
    if b ≤ 99 then .breakPoint false b else .breakPoint true 0
  | .ld d => .unsigned (byteAt record (opAddr d 9)).toNat
  | .rd d => .unsigned (byteAt record (opAddr d 10)).toNat
  | .lc d => .unsigned (bitsOf (byteAt record (opAddr d 11)) 1 0)
  | .rc d => .unsigned (bitsOf (byteAt record (opAddr d 11)) 3 2)
  | .tune d => .signed ((bitsOf (byteAt record (opAddr d 12)) 6 3 : Int) - 7)
  | .rs d => .unsigned (bitsOf (byteAt record (opAddr d 12)) 2 0)
  | .ams d => .unsigned (bitsOf (byteAt record (opAddr d 13)) 1 0)
  | .kvs d => .unsigned (bitsOf (byteAt record (opAddr d 13)) 4 2)
  | .level d => .unsigned (byteAt record (opAddr d 14)).toNat
  | .mode d => .unsigned (bitsOf (byteAt record (opAddr d 15)) 0 0)
  | .coarse d => .rational (coarseRef (byteAt record (opAddr d 15)))
  | .fineRaw d => .unsigned (byteAt record (opAddr d 16)).toNat
  | .pegr j => .unsigned (byteAt record (102 + j)).toNat
  | .pegl j => .unsigned (byteAt record (106 + j)).toNat
  | .alg => .unsigned (bitsOf (byteAt record 110) 4 0 + 1)
  | .fb => .unsigned (bitsOf (byteAt record 110) 7 5)
  | .osync => .unsigned (bitsOf (byteAt record 111) 3 3)
  | .lfoSpeed => .unsigned (byteAt record 112).toNat
  | .lfoDelay => .unsigned (byteAt record 113).toNat
  | .lfoPmd => .unsigned (byteAt record 114).toNat
  | .lfoAmd => .unsigned (byteAt record 115).toNat
  | .lfoSync => .unsigned (bitsOf (byteAt record 116) 0 0)
  | .lfoWave =>
    let w := bitsOf (byteAt record 116) 3 1
    if w ≤ 5 then .wave (some w) else .wave none
  | .pms =>
    match p.pmsSource with
    | .b116Hi => .unsigned (bitsOf (byteAt record 116) 6 4)
    | .b117Lo => .unsigned (bitsOf (byteAt record 117) 2 0)
  | .name =>
    let t := nameRef p.ws ((List.range 10).map fun k => byteAt record (118 + k))
    .name t.length (t ++ List.replicate (10 - t.length) 0)

/-! ### Ranges of the output registers (10_state.md rules R26 to R40) -/

/-- The values an operator bank can hold after a `DECODE` (R28, R32, R36). -/
def OpBank.wf (o : OpBank) : Bool :=
  o.bpIdx.toNat ≤ 99 && (!o.bpNa || o.bpIdx = 0) &&
  (-7 ≤ o.tune.toInt && o.tune.toInt ≤ 8) &&
  (if o.mode = 0 then
    o.coarseX2.toNat = 1 || (o.coarseX2.toNat % 2 = 0 && 2 ≤ o.coarseX2.toNat && o.coarseX2.toNat ≤ 254)
   else [2, 20, 200, 2000].contains o.coarseX2.toNat)

/-- The values the register file can hold after a `DECODE` (R38, R40). -/
def Voice.wf (v : Voice) : Bool :=
  v.op.toList.all OpBank.wf &&
  (1 ≤ v.alg.toNat && v.alg.toNat ≤ 32) &&
  v.nameLen.toNat ≤ 10 && (v.name.toList.drop v.nameLen.toNat).all (· = 0)

/-! ### The invariant -/

/-- What holds of every state a run reaches: `RB` is canonical and inside `RB[0..127]`, `WS` contains the space, the
host's accepted banks are ones `VALIDATE` accepts, and while `VALID = 1` the registers are in range and `RB` is fully written. -/
def State.Inv (s : State) : Prop :=
  s.rb.wf = true ∧ s.rb.inRecord = true ∧ s.params.wf = true ∧
  (∀ buf ∈ s.banks, validate buf = true) ∧
  (s.valid = true → s.voice.wf = true ∧ s.rb.complete = true)

/-- While `VALID = 1` the outputs are the reference decode of some record under the instance's parameters (R23). -/
def State.HoldsADecode (s : State) : Prop :=
  s.valid = true → ∃ record : List Byte, record.length = 128 ∧ ∀ r, readReg s.voice r = specReg s.params record r

/-! ### What is read (30_encoding.md rule R100) -/

/-- The bits of record byte `a` that some extractor reads, under a strap. -/
def readMask (strap : PmsSource) (a : Nat) : Byte :=
  if a < 102 then
    match a % 17 with
    | 11 => 0x0F
    | 12 => 0x7F
    | 13 => 0x1F
    | _ => 0xFF
  else if a = 111 then 0x08
  else if a = 116 then (match strap with | .b116Hi => 0x7F | .b117Lo => 0x0F)
  else if a = 117 then (match strap with | .b116Hi => 0x00 | .b117Lo => 0x07)
  else 0xFF

/-- Two bytes at record address `a` that no output can tell apart (R100): equal in the bits that are read, or, at
slice offset 15, both FIXED and equal in `CS[1:0]`, or both dropped from the name. -/
def sameRead (strap : PmsSource) (a : Nat) (x y : Byte) : Prop :=
  x &&& readMask strap a = y &&& readMask strap a ∨
  (a < 102 ∧ a % 17 = 15 ∧ bitsOf x 0 0 = 1 ∧ bitsOf y 0 0 = 1 ∧ bitsOf x 2 1 = bitsOf y 2 1) ∨
  (118 ≤ a ∧ 128 ≤ x.toNat ∧ 128 ≤ y.toNat)

/-- The fields an instruction carries, in the order of its table row (R107, key `fields`). -/
def fieldValues : Instr → List Nat
  | .xegr _ _ v => [v.toNat]
  | .xegl _ _ v => [v.toNat]
  | .xbp _ v => [v.toNat]
  | .xld _ v => [v.toNat]
  | .xrd _ v => [v.toNat]
  | .xlc _ l => [l.toNat]
  | .xrc _ r => [r.toNat]
  | .xtune _ t => [t.toNat]
  | .xrs _ r => [r.toNat]
  | .xams _ a => [a.toNat]
  | .xkvs _ k => [k.toNat]
  | .xlvl _ v => [v.toNat]
  | .xmode _ m => [m.toNat]
  | .xcoarse _ c m => [c.toNat, m.toNat]
  | .xfine _ v => [v.toNat]
  | .gpegr _ v => [v.toNat]
  | .gpegl _ v => [v.toNat]
  | .galg a => [a.toNat]
  | .gfb f => [f.toNat]
  | .gosync o => [o.toNat]
  | .glspd v => [v.toNat]
  | .gldly v => [v.toNat]
  | .glpmd v => [v.toNat]
  | .glamd v => [v.toNat]
  | .glsync b => [b.toNat]
  | .glwave w => [w.toNat]
  | .gpms _ p => [p.toNat]
  | .gname n => n.toList.map BitVec.toNat

/-- The bits of a byte that a row's extractor reads (R107). -/
def rowMask (row : Nat) : Byte :=
  (((rows[row]?).map Row.fields).getD []).foldl
    (fun m f => m ||| BitVec.ofNat 8 (2 ^ (f.1 + 1) - 2 ^ f.2)) 0

/-- The value of a string of decimal digits. -/
def digitsValue (t : List Char) : Nat := t.foldl (fun n c => 10 * n + (c.toNat - 48)) 0

/-! ### The reference text of what the report shows (44_report_renderer.md rules R222 to R228) -/

/-- The decimal digits of an unsigned register's value. -/
def decimalRef : RegValue → Text
  | .unsigned n => Nat.toDigits 10 n
  | _ => []

/-- The decimal string of a rational at `dp` places, by R205 and R207. -/
def roundedRef (up : Bool) (dp : Nat) (q : Rat) : Text := printDecimal dp (roundNearest up (q * 10 ^ dp))

/-- What the column of `OP[d]` shows in a table row, from what the registers read (R224 to R227, R210, R201, R204). -/
def cellRef (p : RenderParams) (up : Bool) (read : OutReg → RegValue) (d : Fin 6) : TableRow → Text
  | .egr j => decimalRef (read (.egr d j))
  | .egl j => decimalRef (read (.egl d j))
  | .bp =>
    match read (.bp d) with
    | .breakPoint na idx => if na then "N/A".toList else (Config.note idx).toList
    | _ => []
  | .ld => decimalRef (read (.ld d))
  | .rd => decimalRef (read (.rd d))
  | .lc => match read (.lc d) with | .unsigned n => p.curveText n | _ => []
  | .rc => match read (.rc d) with | .unsigned n => p.curveText n | _ => []
  | .mode => match read (.mode d) with | .unsigned m => (if m = 0 then "RATIO" else "FIXED").toList | _ => []
  | .tune =>
    match read (.tune d) with
    | .signed z =>
      if z = 0 then p.zeroTune else (if 0 < z then '+' else '-') :: Nat.toDigits 10 z.natAbs
    | _ => []
  | .coarse => match read (.coarse d) with | .rational c => roundedRef up 2 c | _ => []
  | .fine =>
    match read (.mode d), read (.coarse d), read (.fineRaw d) with
    | .unsigned m, .rational c, .unsigned n =>
      if m = 0 then roundedRef up 2 (c + c * n / 100) else roundedRef up 3 ((1023293 / 1000000) ^ n * c)
    | _, _, _ => []
  | .rs => decimalRef (read (.rs d))
  | .kvs => decimalRef (read (.kvs d))
  | .ams => decimalRef (read (.ams d))
  | .level => decimalRef (read (.level d))

/-- What an item shows, from the label, the slot's record index and what the registers read (R222, R223, R228). -/
def itemRef (p : RenderParams) (label : Text) (index : Fin 32) (read : OutReg → RegValue) : ReportItem → Text
  | .bankLabel => label
  | .slotNumber => Nat.toDigits 10 (index.val + 1)
  | .voiceName =>
    match read .name with
    | .name len codes => (codes.take len).map fun c => Char.ofNat c.toNat
    | _ => []
  | .alg => decimalRef (read .alg)
  | .fb => decimalRef (read .fb)
  | .osync => match read .osync with | .unsigned n => p.boolText (n = 1) | _ => []
  | .transpose => "C3".toList
  | .wave =>
    match read .lfoWave with
    | .wave (some w) => p.waveText w
    | .wave none => p.waveNaText
    | _ => []
  | .speed => decimalRef (read .lfoSpeed)
  | .delay => decimalRef (read .lfoDelay)
  | .sync => match read .lfoSync with | .unsigned n => p.boolText (n = 1) | _ => []
  | .pmd => decimalRef (read .lfoPmd)
  | .amd => decimalRef (read .lfoAmd)
  | .pms => decimalRef (read .pms)
  | .pegr j => decimalRef (read (.pegr j))
  | .pegl j => decimalRef (read (.pegl j))

/-! ### Frames -/

/-- Nothing of the state but the outputs differs: record buffer (as data and byte by byte), `VALID`, parameters, the
host's side and the model's draw counter. -/
def SameButVoice (s t : State) : Prop :=
  t.rb = s.rb ∧ (∀ a, t.rb.read a = s.rb.read a) ∧ t.valid = s.valid ∧ t.params = s.params ∧
  t.draws = s.draws ∧ t.banks = s.banks ∧ t.pending = s.pending ∧ t.replies = s.replies

/-- Nothing differs but the output register `r`: every other output register reads as before (the raw wave code
behind `LFO.WAVE` too), and so does everything else of the state. -/
def OnlyChanges (r : OutReg) (s t : State) : Prop :=
  (∀ q, q ≠ r → readReg t.voice q = readReg s.voice q) ∧
  (r ≠ .lfoWave → t.voice.lfo.waveCode = s.voice.lfo.waveCode) ∧
  SameButVoice s t

/-- The one-byte extractor wired at `site`, which reads `RB[a]`, is the instruction `ins b` for the byte `b` it finds
there, completes, gives register `r` the value `value b`, and changes nothing else. -/
def Extracts (a : Nat) (site : Site) (ins : Byte → Instr) (r : OutReg) (value : Byte → RegValue) : Prop :=
  ∀ (s : State) (b : Byte), s.rb.read a = some b →
    ∃ t, fetch s.rb site = .next (ins b) ∧ exec (ins b) s = .next t ∧ runExtractor site s = .next t ∧
      readReg t.voice r = value b ∧ OnlyChanges r s t

/-! ### The host's duties (70_reset_and_hazards.md rules R265, R268 to R270) -/

/-- What a host that keeps its duties needs to know of the PDU and of itself. -/
structure Duty where
  /-- Record addresses written since `RESET`. -/
  written : List Nat
  /-- A `DECODE` has been done since `RESET`. -/
  decoded : Bool
  /-- The banks that `VALIDATE` has accepted. -/
  banked  : List (List Byte)
deriving DecidableEq, Repr

/-- What holds of a state. -/
def dutyOf (s : State) : Duty :=
  { written := s.rb.map Prod.fst, decoded := s.valid, banked := s.banks }

/-- Whether a command keeps the host's duties: operands in range, decode before read (R269), load fully before decode
(R270), validate before slicing (R268). -/
def Duty.allows (u : Duty) (c : Command) : Bool :=
  c.wf &&
  match c with
  | .recRead a => u.written.contains a
  | .decode => (List.range Config.recSize).all u.written.contains
  | .read _ | .fine _ | .fineDec _ => u.decoded
  | .loadSlice buf _ | .loadSlot buf _ => u.banked.contains buf
  | _ => true

/-- What a host knows after a command. -/
def Duty.after (u : Duty) (c : Command) : Duty :=
  match c with
  | .reset => { u with written := [], decoded := false }
  | .load _ | .loadSlice _ _ | .loadSlot _ _ => { u with written := List.range Config.recSize ++ u.written }
  | .recWrite a _ => { u with written := a :: u.written }
  | .decode => { u with decoded := true }
  | .presentBank (.bytes buf) => if validate buf then { u with banked := buf :: u.banked } else u
  | _ => u

/-- A host program that keeps its duties to its end, or to the unreadable bank at which the host gives up (R117). -/
def Duty.obeyed : Duty → List Command → Bool
  | _, [] => true
  | _, .presentBank .unreadable :: _ => true
  | u, c :: rest => u.allows c && (u.after c).obeyed rest

/-- The commands that write an output register or `VALID` (R41, R261). -/
def Command.writesOutputs : Command → Bool
  | .reset | .decode => true
  | _ => false

/-- The commands that write `RB` (R41, R191, R261). -/
def Command.writesRecord : Command → Bool
  | .reset | .load _ | .recWrite _ _ | .loadSlice _ _ | .loadSlot _ _ => true
  | _ => false

end Sys2Proof.Machine
end

