-- ==== Sys2Proof/Certificates/Slice0/Obligations.lean ====
section
/-!
DEFINITION. The statements about the PDU, from the numbered rules of the spec. None is proved here.
-/

open Sys2Proof Sys2Proof.Machine

/-! ### Encoding (30_encoding.md) -/

/-- Decoding an instruction's own bytes at its own site gives the instruction back, for every instruction and every
value of its fields (formats R83 to R92). -/
def Obligations.DecodeOfEncodeIsTheInstruction : Prop :=
  ∀ i : Instr, decode i.site (encode i) = .ok i

/-- At every one-byte site every byte decodes, to an instruction of that site whose fields are the table row's bit
ranges of the byte (R99, R107); ten bytes decode at `GNAME`'s site, to themselves. -/
def Obligations.EveryByteDecodesToItsRowsFields : Prop :=
  (∀ (site : Site) (row : Row) (b : Byte), site.wf = true → rows[site.row]? = some row → row.length = 1 →
    ∃ i, decode site [b] = .ok i ∧ i.site = site ∧
      fieldValues i = row.fields.map fun f => bitsOf b f.1 f.2) ∧
  (∀ bytes : List Byte, bytes.length = 10 →
    ∃ i, decode ⟨40, 0⟩ bytes = .ok i ∧ i.site = ⟨40, 0⟩ ∧ fieldValues i = bytes.map BitVec.toNat)

/-- Encoding what was decoded from a byte gives the byte with exactly the bits the row does not read cleared (R100,
R107). -/
def Obligations.EncodeOfDecodeKeepsTheReadBits : Prop :=
  ∀ (site : Site) (b : Byte) (i : Instr), decode site [b] = .ok i → encode i = [b &&& rowMask site.row]

/-- A site that does not exist, and a wrong number of bytes at one that does, are rejected by name (R88, R107). -/
def Obligations.DecodeRejectsByName : Prop :=
  (∀ (site : Site) (bytes : List Byte), site.wf = false →
    decode site bytes = .error (.noSuchRow site.row) ∨ decode site bytes = .error (.noSuchSlice site.slice)) ∧
  (∀ (site : Site) (bytes : List Byte), site.wf = true → bytes.length ≠ siteLength site →
    decode site bytes = .error (.wrongLength bytes.length))

/-- Words of 95_test_vectors.md, written out from the encodings, decode to the instructions they stand for: of a
direct byte (R83) and of every packed format (R84 to R87, R89 to R92). -/
def Obligations.SampleBytesDecode : Prop :=
  decode ⟨2, 5⟩ [0x35] = .ok (.xegr 5 2 53) ∧
  decode ⟨12, 0⟩ [0b00001001] = .ok (.xrc 0 0b10) ∧
  decode ⟨13, 4⟩ [0b10101101] = .ok (.xtune 4 0b0101) ∧
  decode ⟨15, 4⟩ [0b00111101] = .ok (.xams 4 0b01) ∧
  decode ⟨16, 4⟩ [0b00111101] = .ok (.xkvs 4 0b111) ∧
  decode ⟨19, 3⟩ [0b11111110] = .ok (.xcoarse 3 0b1111111 0) ∧
  decode ⟨29, 0⟩ [0b11110101] = .ok (.galg 0b10101) ∧
  decode ⟨30, 0⟩ [0b11110101] = .ok (.gfb 0b111) ∧
  decode ⟨31, 0⟩ [0b11110111] = .ok (.gosync 0b0) ∧
  decode ⟨37, 0⟩ [0b00111001] = .ok (.glwave 0b100) ∧
  decode ⟨38, 0⟩ [0b00111001] = .ok (.gpms .b116Hi 0b011) ∧
  decode ⟨39, 0⟩ [0b11111101] = .ok (.gpms .b117Lo 0b101)

/-- Under either strap the instance is wired with 145 extractors, and between them they write each of the 145 output
registers exactly once (R41, R88). -/
def Obligations.WiredExtractorsWriteEachRegisterOnce : Prop :=
  ∀ (strap : PmsSource) (rb : Memory), rb.complete = true →
    ∃ is, fetchProgram strap rb = .next is ∧ is.length = 145 ∧ (is.map dest).Perm allRegs ∧ allRegs.Nodup ∧
      ∀ i ∈ is, i.wf strap = true

/-! ### Extractors: every instruction completes, with its frame -/

/-- Every extractor, with every value of its fields, in every state, completes, and changes at most the one register
the extractor map gives it (R88, R130, R240): nothing faults, `RB` and `VALID` are untouched. -/
def Obligations.EveryExtractorCompletesWithItsFrame : Prop :=
  ∀ (i : Instr) (s : State), ∃ t, exec i s = .next t ∧ OnlyChanges (dest i) s t

/-- `XEGR j` and `XEGL j` copy their byte, unchanged, into the bank `OP[5 - i]` (R131, R132). -/
def Obligations.EnvelopeExtractorsCopyTheirByte : Prop :=
  ∀ (i d : Fin 6) (j : Fin 4), (d : Nat) = 5 - i →
    Extracts (17 * i + j) ⟨j, i⟩ (fun b => .xegr i j b) (.egr d j) (fun b => .unsigned b.toNat) ∧
    Extracts (17 * i + 4 + j) ⟨4 + j, i⟩ (fun b => .xegl i j b) (.egl d j) (fun b => .unsigned b.toNat)

/-- `XBP`: a byte at most 99 is the index, shown as that entry of `NOTE`; a greater one gives the sentinel, index 0,
shown as `N/A` (R136). -/
def Obligations.BreakPointIsIndexOrSentinel : Prop :=
  ∀ (i d : Fin 6), (d : Nat) = 5 - i →
    Extracts (17 * i + 8) ⟨8, i⟩ (fun b => .xbp i b) (.bp d)
      (fun b => if b.toNat ≤ 99 then .breakPoint false b.toNat else .breakPoint true 0) ∧
    ∀ (s t : State) (b : Byte), exec (.xbp i b) s = .next t →
      bpText t.voice.op[d] = if b.toNat ≤ 99 then (Config.note b.toNat).toList else "N/A".toList

/-- `XLD`, `XRD`, `XLVL`, `XFINE` copy their byte (R137, R138, R145, R148). -/
def Obligations.DirectOperatorExtractorsCopyTheirByte : Prop :=
  ∀ (i d : Fin 6), (d : Nat) = 5 - i →
    Extracts (17 * i + 9) ⟨9, i⟩ (fun b => .xld i b) (.ld d) (fun b => .unsigned b.toNat) ∧
    Extracts (17 * i + 10) ⟨10, i⟩ (fun b => .xrd i b) (.rd d) (fun b => .unsigned b.toNat) ∧
    Extracts (17 * i + 14) ⟨17, i⟩ (fun b => .xlvl i b) (.level d) (fun b => .unsigned b.toNat) ∧
    Extracts (17 * i + 16) ⟨20, i⟩ (fun b => .xfine i b) (.fineRaw d) (fun b => .unsigned b.toNat)

/-- `XLC` takes bits 1 to 0 and `XRC` bits 3 to 2 of slice byte 11, and the curve shown is that entry of `CURVE`
(R139, R140). -/
def Obligations.CurveExtractorsTakeTheirTwoBits : Prop :=
  ∀ (i d : Fin 6), (d : Nat) = 5 - i →
    Extracts (17 * i + 11) ⟨11, i⟩ (fun b => .xlc i (field b 0 2)) (.lc d) (fun b => .unsigned (b.toNat % 4)) ∧
    Extracts (17 * i + 11) ⟨12, i⟩ (fun b => .xrc i (field b 2 2)) (.rc d) (fun b => .unsigned (b.toNat / 4 % 4)) ∧
    ∀ (s t : State) (c : BitVec 2) (p : RenderParams) (up : Bool),
      (exec (.xlc i c) s = .next t →
        cellText p.withSpecTables up t.voice.op[d] .lc = (Config.curve c.toNat).toList ∧
        cellText p up t.voice.op[d] .lc = p.curveText c.toNat) ∧
      (exec (.xrc i c) s = .next t →
        cellText p.withSpecTables up t.voice.op[d] .rc = (Config.curve c.toNat).toList ∧
        cellText p up t.voice.op[d] .rc = p.curveText c.toNat)

/-- `XTUNE` subtracts 7 from bits 6 to 3 of slice byte 12, -7 to +8; `XRS` takes bits 2 to 0 (R141, R142). -/
def Obligations.TuneAndRateScaleExtractors : Prop :=
  ∀ (i d : Fin 6), (d : Nat) = 5 - i →
    Extracts (17 * i + 12) ⟨13, i⟩ (fun b => .xtune i (field b 3 4)) (.tune d)
      (fun b => .signed ((b.toNat / 8 % 16 : Int) - 7)) ∧
    Extracts (17 * i + 12) ⟨14, i⟩ (fun b => .xrs i (field b 0 3)) (.rs d) (fun b => .unsigned (b.toNat % 8))

/-- `XAMS` takes bits 1 to 0 and `XKVS` bits 4 to 2 of slice byte 13 (R143, R144). -/
def Obligations.SensitivityExtractors : Prop :=
  ∀ (i d : Fin 6), (d : Nat) = 5 - i →
    Extracts (17 * i + 13) ⟨15, i⟩ (fun b => .xams i (field b 0 2)) (.ams d) (fun b => .unsigned (b.toNat % 4)) ∧
    Extracts (17 * i + 13) ⟨16, i⟩ (fun b => .xkvs i (field b 2 3)) (.kvs d) (fun b => .unsigned (b.toNat / 4 % 8))

/-- `XMODE` takes bit 0 of slice byte 15; `XCOARSE` resolves the same byte: RATIO gives 1/2 for selector 0 and the
whole 7-bit selector otherwise, FIXED gives 1, 10, 100 or 1000 by two bits (R146, R147). -/
def Obligations.ModeAndCoarseExtractors : Prop :=
  ∀ (i d : Fin 6), (d : Nat) = 5 - i →
    Extracts (17 * i + 15) ⟨18, i⟩ (fun b => .xmode i (field b 0 1)) (.mode d) (fun b => .unsigned (b.toNat % 2)) ∧
    Extracts (17 * i + 15) ⟨19, i⟩ (fun b => .xcoarse i (field b 1 7) (field b 0 1)) (.coarse d)
      (fun b => .rational
        (if b.toNat % 2 = 0 then (if b.toNat / 2 = 0 then 1 / 2 else ((b.toNat / 2 : Nat) : Rat))
         else if b.toNat / 2 % 4 = 0 then 1 else if b.toNat / 2 % 4 = 1 then 10
         else if b.toNat / 2 % 4 = 2 then 100 else 1000))

/-- `GPEGR j` and `GPEGL j` copy record bytes 102 to 105 and 106 to 109 (R171, R172). -/
def Obligations.PitchEnvelopeExtractorsCopyTheirByte : Prop :=
  ∀ j : Fin 4,
    Extracts (102 + j) ⟨21 + j, 0⟩ (fun b => .gpegr j b) (.pegr j) (fun b => .unsigned b.toNat) ∧
    Extracts (106 + j) ⟨25 + j, 0⟩ (fun b => .gpegl j b) (.pegl j) (fun b => .unsigned b.toNat)

/-- `GALG` adds 1 to bits 4 to 0 of record byte 110, 1 to 32; `GFB` takes bits 7 to 5 (R173, R174). -/
def Obligations.AlgorithmAndFeedbackExtractors : Prop :=
  Extracts 110 ⟨29, 0⟩ (fun b => .galg (field b 0 5)) .alg (fun b => .unsigned (b.toNat % 32 + 1)) ∧
  Extracts 110 ⟨30, 0⟩ (fun b => .gfb (field b 5 3)) .fb (fun b => .unsigned (b.toNat / 32))

/-- `GOSYNC` takes bit 3 of record byte 111, `GLSYNC` bit 0 of record byte 116 (R175, R180). -/
def Obligations.SyncExtractorsTakeOneBit : Prop :=
  Extracts 111 ⟨31, 0⟩ (fun b => .gosync (field b 3 1)) .osync (fun b => .unsigned (b.toNat / 8 % 2)) ∧
  Extracts 116 ⟨36, 0⟩ (fun b => .glsync (field b 0 1)) .lfoSync (fun b => .unsigned (b.toNat % 2))

/-- `GLSPD`, `GLDLY`, `GLPMD`, `GLAMD` copy record bytes 112 to 115 (R176 to R179). -/
def Obligations.LfoExtractorsCopyTheirByte : Prop :=
  Extracts 112 ⟨32, 0⟩ (fun b => .glspd b) .lfoSpeed (fun b => .unsigned b.toNat) ∧
  Extracts 113 ⟨33, 0⟩ (fun b => .gldly b) .lfoDelay (fun b => .unsigned b.toNat) ∧
  Extracts 114 ⟨34, 0⟩ (fun b => .glpmd b) .lfoPmd (fun b => .unsigned b.toNat) ∧
  Extracts 115 ⟨35, 0⟩ (fun b => .glamd b) .lfoAmd (fun b => .unsigned b.toNat)

/-- `GLWAVE` keeps bits 3 to 1 of record byte 116 as the raw code; codes 0 to 5 are `wave(code)`, shown as that entry
of `WAVE`, codes 6 and 7 the sentinel (R182). -/
def Obligations.WaveIsCodeOrSentinel : Prop :=
  Extracts 116 ⟨37, 0⟩ (fun b => .glwave (field b 1 3)) .lfoWave
    (fun b => if b.toNat / 2 % 8 ≤ 5 then .wave (some (b.toNat / 2 % 8)) else .wave none) ∧
  ∀ (s t : State) (w : BitVec 3) (p : RenderParams), exec (.glwave w) s = .next t →
    t.voice.lfo.waveCode = w ∧
    (w.toNat ≤ 5 → waveShown p.withSpecTables t.voice.lfo.waveCode = (Config.wave w.toNat).toList ∧
      waveShown p t.voice.lfo.waveCode = p.waveText w.toNat) ∧
    (5 < w.toNat → waveShown p t.voice.lfo.waveCode = p.waveNaText)

/-- `GPMS` takes bits 6 to 4 of record byte 116 under strap `B116_HI` and bits 2 to 0 of record byte 117 under strap
`B117_LO`; the row of the other strap writes nothing at all (R183). -/
def Obligations.PitchModSensitivityFollowsTheStrap : Prop :=
  (∀ (s : State) (b : Byte), s.params.pmsSource = .b116Hi → s.rb.read 116 = some b →
    ∃ t, fetch s.rb ⟨38, 0⟩ = .next (.gpms .b116Hi (field b 4 3)) ∧
      exec (.gpms .b116Hi (field b 4 3)) s = .next t ∧ runExtractor ⟨38, 0⟩ s = .next t ∧
      readReg t.voice .pms = .unsigned (b.toNat / 16 % 8) ∧ OnlyChanges .pms s t) ∧
  (∀ (s : State) (b : Byte), s.params.pmsSource = .b117Lo → s.rb.read 117 = some b →
    ∃ t, fetch s.rb ⟨39, 0⟩ = .next (.gpms .b117Lo (field b 0 3)) ∧
      exec (.gpms .b117Lo (field b 0 3)) s = .next t ∧ runExtractor ⟨39, 0⟩ s = .next t ∧
      readReg t.voice .pms = .unsigned (b.toNat % 8) ∧ OnlyChanges .pms s t) ∧
  (∀ (s : State) (src : PmsSource) (p : BitVec 3), s.params.pmsSource ≠ src → exec (.gpms src p) s = .next s)

/-- `GNAME`: of record bytes 118 to 127 those of 128 and more are dropped, then the longest prefix and suffix in `WS`;
`NAME_LEN` is what is left, the cells beyond it 0 (R184), for whatever set `WS` the instance has. -/
def Obligations.NameIsKeptThenTrimmed : Prop :=
  ∀ (s : State) (n : Vector Byte 10), (∀ k : Fin 10, s.rb.read (118 + k) = some n[k]) →
    ∃ t, fetch s.rb ⟨40, 0⟩ = .next (.gname n) ∧ exec (.gname n) s = .next t ∧
      runExtractor ⟨40, 0⟩ s = .next t ∧
      (nameRef s.params.ws n.toList).length ≤ 10 ∧
      readReg t.voice .name = .name (nameRef s.params.ws n.toList).length
        (nameRef s.params.ws n.toList ++ List.replicate (10 - (nameRef s.params.ws n.toList).length) 0) ∧
      OnlyChanges .name s t

/-! ### DECODE (42_global_decode.md rule R192) -/

/-- A step whose command is `DECODE` runs exactly the instructions decoded at the wired sites of `RB`, one after the
other, and then sets `VALID`: the per-extractor statements reach a run through this one. -/
def Obligations.DecodeStepRunsTheDecodedInstructions : Prop :=
  ∀ (s : State) (rest : List Command), s.pending = .decode :: rest → s.rb.complete = true →
    ∃ (is : List Instr) (t : State), fetchProgram s.params.pmsSource s.rb = .next is ∧
      List.Forall₂ (fun site i => fetch s.rb site = .next i) (wiredSites s.params.pmsSource) is ∧
      execAll is { s with pending := rest } = .next t ∧ step s = .next { t with valid := true }

/-- `DECODE` gives every output register the value the extractor map assigns it from the 128 bytes of `RB` and the
strap, sets `VALID`, and writes nothing else; with a byte of `RB` unwritten it is the fault `Unwritten` (R192). -/
def Obligations.DecodeGivesTheReferenceVoice : Prop :=
  ∀ (s : State) (rest : List Command), s.pending = .decode :: rest →
    (∀ record, s.rb.record = some record →
      ∃ t, step s = .next t ∧ t.valid = true ∧ (∀ r, readReg t.voice r = specReg s.params record r) ∧
        t.voice.lfo.waveCode.toNat = bitsOf (byteAt record 116) 3 1 ∧
        t.rb = s.rb ∧ t.params = s.params ∧ t.draws = s.draws ∧ t.banks = s.banks ∧ t.pending = rest ∧
        t.replies = s.replies) ∧
    (s.rb.record = none → step s = .fault .unwritten)

/-- The order in which the extractors run is not observable: any rearrangement of the instructions a record is, run on
any state, ends in the same state (R24). -/
def Obligations.ExtractorOrderIsNotObservable : Prop :=
  ∀ (strap : PmsSource) (rb : Memory) (is js : List Instr) (s : State),
    fetchProgram strap rb = .next is → js.Perm is → execAll js s = execAll is s

/-- What a `DECODE` leaves in the output registers depends on `RB` and the parameters alone, not on what was decoded
before (R49). -/
def Obligations.DecodeForgetsTheEarlierVoice : Prop :=
  ∀ (s t : State) (rs rt : List Command), s.pending = .decode :: rs → t.pending = .decode :: rt →
    s.rb = t.rb → s.params = t.params → s.rb.complete = true →
    ∃ s' t', step s = .next s' ∧ step t = .next t' ∧ s'.voice = t'.voice

/-- A second `DECODE` of the same record leaves the state the first one left (R192, 95_test_vectors.md E10). -/
def Obligations.SecondDecodeChangesNothing : Prop :=
  ∀ (s : State) (rest : List Command), s.pending = .decode :: .decode :: rest → s.rb.complete = true →
    ∃ t, step s = .next t ∧ step t = .next { t with pending := rest }

/-- Record bits that no extractor reads have no effect on any output: two records that differ only in unread bits, in
`CS[6:2]` of a FIXED operator, or in name bytes that are dropped, decode to the same Voice (R100). -/
def Obligations.UnreadBitsHaveNoEffect : Prop :=
  ∀ (s t : State) (rs rt : List Command) (x y : List Byte),
    s.pending = .decode :: rs → t.pending = .decode :: rt → s.params = t.params →
    s.rb.record = some x → t.rb.record = some y →
    (∀ a, a < 128 → sameRead s.params.pmsSource a (byteAt x a) (byteAt y a)) →
    ∃ s' t', step s = .next s' ∧ step t = .next t' ∧ s'.voice = t'.voice

/-- `OP[d]` depends only on the 17 bytes of its own slice, `RB[17*(5-d)]` to `RB[17*(5-d)+16]` (R149, R150). -/
def Obligations.OperatorDependsOnlyOnItsSlice : Prop :=
  ∀ (d : Fin 6) (s t : State) (rs rt : List Command) (x y : List Byte),
    s.pending = .decode :: rs → t.pending = .decode :: rt →
    s.rb.record = some x → t.rb.record = some y →
    (∀ f, f < 17 → byteAt x (17 * (5 - d) + f) = byteAt y (17 * (5 - d) + f)) →
    ∃ s' t', step s = .next s' ∧ step t = .next t' ∧ s'.voice.op[d] = t'.voice.op[d]

/-- Every Voice a `DECODE` leaves is in range: `BP_IDX` at most 99 and 0 beside the sentinel, `TUNE` -7 to +8, `COARSE`
one of its values for the mode, `ALG` 1 to 32, `NAME_LEN` at most 10, `NAME` 0 beyond it (R28, R32, R36, R38, R40). -/
def Obligations.DecodedVoiceIsInRange : Prop :=
  ∀ (s t : State) (rest : List Command), s.pending = .decode :: rest → step s = .next t → t.voice.wf = true

/-! ### The record buffer and the host's commands -/

/-- Reading the record buffer after a write gives the value written at that address, and leaves every other address
alone; a write keeps the canonical form (R72, and the memory's form of notes/assumptions/6.md). -/
def Obligations.RecordBufferReadAfterWrite : Prop :=
  ∀ (m : Memory) (a b : Nat) (v : Byte), m.wf = true →
    (m.write a v).read a = some v ∧ (b ≠ a → (m.write a v).read b = m.read b) ∧ (m.write a v).wf = true

/-- `LOAD` makes `RB` the 128 bytes given, whatever it held, and changes no output register nor `VALID` (R191). -/
def Obligations.LoadReplacesTheRecordOnly : Prop :=
  ∀ (s : State) (record : Vector Byte 128) (rest : List Command), s.pending = .load record :: rest →
    ∃ rb, step s = .next { s with pending := rest, rb := rb } ∧ rb.record = some record.toList ∧
      ∀ a, 128 ≤ a → rb.read a = s.rb.read a

/-- `RecWrite` writes its byte and no other, and nothing but `RB`; `RecRead` answers the byte and changes nothing else
(R41, R191). What the model makes of an address beyond 127 and of a byte never written is a fault by name
(notes/assumptions/7.md). -/
def Obligations.SingleByteHostAccess : Prop :=
  ∀ (s : State) (a : Nat) (v : Byte) (rest : List Command),
    (s.pending = .recWrite a v :: rest →
      (a < 128 → ∃ rb, step s = .next { s with pending := rest, rb := rb } ∧ rb.read a = some v ∧
        ∀ b, b ≠ a → rb.read b = s.rb.read b) ∧
      (128 ≤ a → step s = .fault (.noSuchAddress a))) ∧
    (s.pending = .recRead a :: rest →
      (a < 128 → s.rb.read a = some v →
        step s = .next { s with pending := rest, replies := s.replies ++ [.recByte a v] }) ∧
      (a < 128 → s.rb.read a = none → step s = .fault .unwritten) ∧
      (128 ≤ a → step s = .fault (.noSuchAddress a)))

/-- `READ reg` answers the register's value and changes nothing while `VALID = 1`, and is the fault `Unwritten` while
`VALID = 0`; `READ STATUS` always answers `VALID`, zero-extended (R193). -/
def Obligations.ReadAnswersTheRegisterOrFaults : Prop :=
  ∀ (s : State) (rest : List Command),
    (∀ r, s.pending = .read r :: rest →
      (s.valid = true →
        step s = .next { s with pending := rest, replies := s.replies ++ [.value r (readReg s.voice r)] }) ∧
      (s.valid = false → step s = .fault .unwritten)) ∧
    (s.pending = .readStatus :: rest →
      step s = .next { s with pending := rest, replies := s.replies ++ [.status (if s.valid then 1 else 0)] })

/-- The strap is readable by the host and no step ever changes it, or the set `WS`: a step has no transition for them
(R43, R272). -/
def Obligations.StrapIsReadableAndNeverMoves : Prop :=
  (∀ (s : State) (rest : List Command), s.pending = .readStrap :: rest →
    step s = .next { s with pending := rest, replies := s.replies ++ [.strap s.params.pmsSource] }) ∧
  (∀ s t : State, step s = .next t → t.params = s.params)

/-- `RESET` completes in every state: `VALID` is 0, no byte of `RB` and no output register has a value any more (each
use of one faults, and `STATUS` reads 0), and the parameters and the host's bank are unchanged (R261). -/
def Obligations.ResetLeavesNoValue : Prop :=
  ∀ (s : State) (rest : List Command), s.pending = .reset :: rest →
    ∃ t, step s = .next t ∧ t.valid = false ∧ (∀ a, t.rb.read a = none) ∧ t.params = s.params ∧ t.banks = s.banks ∧
      t.pending = rest ∧ t.replies = s.replies ∧
      (∀ r cs, step { t with pending := .read r :: cs } = .fault .unwritten) ∧
      (∀ d cs, step { t with pending := .fine d :: cs } = .fault .unwritten) ∧
      (∀ d cs, step { t with pending := .fineDec d :: cs } = .fault .unwritten) ∧
      (∀ cs, step { t with pending := .decode :: cs } = .fault .unwritten) ∧
      (∀ cs, step { t with pending := .readStatus :: cs } =
        .next { t with pending := cs, replies := t.replies ++ [.status 0] })

/-- The state an instance begins in: `VALID` 0, no byte of `RB` written, the default strap, and every use of an output
register or of `RB` is the fault `Unwritten` (R48, R262, R247). That a read back of a byte of `RB` is such a use is the
model's choice (notes/assumptions/7.md). The values the blank registers hold are not stated. -/
def Obligations.ResetStateHasNoVoice : Prop :=
  State.reset.valid = false ∧ (∀ a, State.reset.rb.read a = none) ∧ State.reset.params.pmsSource = .b116Hi ∧
  (∀ r cs, step { State.reset with pending := .read r :: cs } = .fault .unwritten) ∧
  (∀ d cs, step { State.reset with pending := .fine d :: cs } = .fault .unwritten) ∧
  (∀ d cs, step { State.reset with pending := .fineDec d :: cs } = .fault .unwritten) ∧
  (∀ cs, step { State.reset with pending := .decode :: cs } = .fault .unwritten) ∧
  (∀ a cs, a < 128 → step { State.reset with pending := .recRead a :: cs } = .fault .unwritten)

/-- With no command pending a step changes nothing: the PDU does nothing until the host issues a command (R263). -/
def Obligations.IdleWithoutCommand : Prop :=
  ∀ s : State, s.pending = [] → step s = .next s

/-! ### The loader (40_bank_loader.md) -/

/-- `VALIDATE` accepts exactly the buffers of 4104 bytes whose first six are the signature, whatever follows (R111). -/
def Obligations.ValidateAcceptsLengthAndSignature : Prop :=
  ∀ buf : List Byte, validate buf = true ↔
    buf.length = 4104 ∧ buf[0]? = some 0xF0 ∧ buf[1]? = some 0x43 ∧ buf[2]? = some 0x00 ∧ buf[3]? = some 0x09 ∧
      buf[4]? = some 0x20 ∧ buf[5]? = some 0x00

/-- `SLICE(buf, k)` of an accepted bank is its bytes `6 + 128*k` to `6 + 128*k + 127` for `k` = 0 to 31, and is refused
for any other `k`; the 32 records use each of bytes 6 to 4101 exactly once (R114). -/
def Obligations.SlicesPartitionTheBank : Prop :=
  (∀ (buf : List Byte) (k : Nat), validate buf = true →
    (k < 32 → ∃ record : Vector Byte 128, sliceBank buf k = some record ∧
      ∀ a : Fin 128, buf[6 + 128 * k + a]? = some record[a]) ∧
    (32 ≤ k → sliceBank buf k = none)) ∧
  (∀ x : Nat, 6 ≤ x ∧ x ≤ 4101 ↔ ∃ k a, k < 32 ∧ a < 128 ∧ x = bankAddr k a) ∧
  (∀ k a k' a' : Nat, a < 128 → a' < 128 → bankAddr k a = bankAddr k' a' → k = k' ∧ a = a')

/-- The host's handling of a bank: an accepted one is one the host may slice from then on, a bad one is rejected as
`InvalidBank`, an unreadable one as `SourceUnreadable` after which the host issues no command; a rejection takes no
bank accepted earlier away, and in no case does anything of the PDU change (R112, R241, R242, R245, R246). What the
host holds and that its queue ends is the model's form (notes/assumptions/5.md, notes/assumptions/8.md). -/
def Obligations.BankIsValidatedBeforeThePduRuns : Prop :=
  ∀ (s : State) (rest : List Command),
    (∀ buf, s.pending = .presentBank (.bytes buf) :: rest →
      (validate buf = true → step s =
        .next { s with pending := rest, banks := buf :: s.banks, replies := s.replies ++ [.accepted] }) ∧
      (validate buf = false →
        step s = .next { s with pending := rest, replies := s.replies ++ [.rejected .invalidBank] })) ∧
    (s.pending = .presentBank .unreadable :: rest →
      step s = .next { s with pending := [], replies := s.replies ++ [.rejected .sourceUnreadable] })

/-- `LOAD SLICE(buf, k)` of an accepted bank puts record `k` into `RB` and changes nothing else; by slot number it is
record `slot - 1` (R115, R116). Outside 0 to 31, outside slots 1 to 32, or of a bank that was not accepted, the model
refuses (R114, R268; the model's stops, notes/assumptions/8.md). -/
def Obligations.LoadingARecordOfTheBank : Prop :=
  ∀ (s : State) (rest : List Command) (buf : List Byte) (k : Nat),
    (s.pending = .loadSlice buf k :: rest ∨ s.pending = .loadSlot buf (k + 1) :: rest →
      (buf ∈ s.banks → validate buf = true → k < 32 →
        ∃ rb record, step s = .next { s with pending := rest, rb := rb } ∧ rb.record = some record ∧
          (∀ a, a < 128 → record[a]? = buf[6 + 128 * k + a]?) ∧ ∀ a, 128 ≤ a → rb.read a = s.rb.read a) ∧
      (buf ∉ s.banks → k < 32 → step s = .refused .bankNotAccepted)) ∧
    (s.pending = .loadSlice buf k :: rest → 32 ≤ k →
      (buf ∉ s.banks → step s = .refused .bankNotAccepted) ∧
      (buf ∈ s.banks → step s = .refused (.sliceOutOfRange k))) ∧
    (s.pending = .loadSlot buf k :: rest → k = 0 ∨ 32 < k → step s = .refused (.sliceOutOfRange k))

/-! ### The transforms (43_tuning_transforms.md) -/

/-- `FINE(d)` answers the exact rational of the register values: `c + c*n/100` in RATIO mode, `1.023293^n * c` in FIXED
mode, and changes nothing; while `VALID = 0` it faults (R200, R201). -/
def Obligations.FineIsTheExactFormula : Prop :=
  ∀ (s : State) (d : Fin 6) (rest : List Command), s.pending = .fine d :: rest →
    (s.valid = true → ∀ (c : Rat) (m n : Nat), readReg s.voice (.coarse d) = .rational c →
      readReg s.voice (.mode d) = .unsigned m → readReg s.voice (.fineRaw d) = .unsigned n →
      step s = .next { s with pending := rest, replies := s.replies ++
        [.fine d (if m = 0 then c + c * n / 100 else (1023293 / 1000000) ^ n * c)] }) ∧
    (s.valid = false → step s = .fault .unwritten)

/-- `FINEDEC(d)` answers a pair: 2 places in RATIO mode and 3 in FIXED mode, and an integer within half a unit of
`FINE * 10^dp`, the nearest one when that is not a tie; nothing of the PDU changes, and it faults while `VALID = 0`
(R204, R205). -/
def Obligations.FineDecAnswersTheNearest : Prop :=
  ∀ (s : State) (d : Fin 6) (rest : List Command), s.pending = .fineDec d :: rest →
    (s.valid = true → ∃ (t : State) (dp q : Nat), step s = .next t ∧
      t.replies = s.replies ++ [.fineDec d dp q] ∧
      dp = (if s.voice.op[d].mode = 0 then 2 else 3) ∧
      (q : Rat) - fineOf s.voice.op[d] * 10 ^ dp ≤ 1 / 2 ∧ fineOf s.voice.op[d] * 10 ^ dp - (q : Rat) ≤ 1 / 2 ∧
      t.rb = s.rb ∧ t.voice = s.voice ∧ t.valid = s.valid ∧ t.params = s.params ∧ t.banks = s.banks ∧
      t.pending = rest) ∧
    (s.valid = false → step s = .fault .unwritten)

/-- Ties arise exactly in RATIO mode with `COARSE = 1/2` and `FINE_RAW` odd (R206), over every value an operator bank
can hold. -/
def Obligations.TiesAreExactlyTheOddHalves : Prop :=
  ∀ o : OpBank, o.wf = true →
    (isTie (fineScaled o) = true ↔ o.mode = 0 ∧ o.coarse = 1 / 2 ∧ o.fineRaw.toNat % 2 = 1)

/-- The choice at a tie is the only freedom: away from a tie both choices give the same pair, at a tie they give the
two neighbours `m` and `m + 1` (R205, R206). -/
def Obligations.TieIsTheOnlyFreeChoice : Prop :=
  ∀ o : OpBank,
    (isTie (fineScaled o) = false → fineDecOf true o = fineDecOf false o) ∧
    (isTie (fineScaled o) = true →
      (fineDecOf true o).2 = (fineDecOf false o).2 + 1 ∧
      fineScaled o = ((fineDecOf false o).2 : Rat) + 1 / 2)

/-- The ranges of the displayed integer, whichever way ties go: 50 to 45085 in RATIO mode, 1000 to 354814072 in FIXED
mode (R208). -/
def Obligations.FineDecRanges : Prop :=
  ∀ (o : OpBank) (up : Bool), o.wf = true →
    (o.mode = 0 → 50 ≤ (fineDecOf up o).2 ∧ (fineDecOf up o).2 ≤ 45085) ∧
    (o.mode ≠ 0 → 1000 ≤ (fineDecOf up o).2 ∧ (fineDecOf up o).2 ≤ 354814072)

/-- `FINE` equals `COARSE` exactly at `FINE_RAW = 0` and is strictly increasing in `FINE_RAW`, in both modes (R202a,
R202f, R203a, R203e). -/
def Obligations.FineStartsAtCoarseAndIncreases : Prop :=
  ∀ o p : OpBank, o.wf = true → p.mode = o.mode → p.coarseX2 = o.coarseX2 →
    (o.fineRaw = 0 → fineOf o = o.coarse) ∧ (o.fineRaw.toNat < p.fineRaw.toNat → fineOf o < fineOf p)

/-- Printing: digits with one full stop before the last `dp` of them, no leading zero in the integer part but a single
`0`, and the digits together are `q` (R207). -/
def Obligations.PrintedDecimalReadsBack : Prop :=
  ∀ dp q : Nat, ∃ whole frac : List Char, printDecimal dp q = whole ++ '.' :: frac ∧ frac.length = dp ∧
    (∀ c ∈ whole ++ frac, c.isDigit = true) ∧ whole ≠ [] ∧ (whole.head? = some '0' → whole = ['0']) ∧
    digitsValue whole = q / 10 ^ dp ∧ digitsValue frac = q % 10 ^ dp

/-! ### The whole machine -/

/-- The invariant of the state is kept by every step, from every state that meets it. -/
def Obligations.EveryStepKeepsTheInvariant : Prop :=
  ∀ s t : State, s.Inv → step s = .next t → t.Inv

/-- The state after reset meets the invariant. -/
def Obligations.ResetMeetsTheInvariant : Prop := State.reset.Inv

/-- `VALID = 1` means that the outputs are the decode of a record: true of the reset state and kept by every step, from
every state where it is true (R23). -/
def Obligations.ValidMeansTheOutputsAreADecode : Prop :=
  State.reset.HoldsADecode ∧ ∀ s t : State, s.HoldsADecode → step s = .next t → t.HoldsADecode

/-- Access rights: only `DECODE` and `RESET` change an output register or `VALID`, only the host's writes and `RESET`
change `RB` (R41, R72). -/
def Obligations.OnlyTheRightCommandsWrite : Prop :=
  ∀ (s t : State) (c : Command) (rest : List Command), s.pending = c :: rest → step s = .next t →
    (c.writesOutputs = false → t.voice = s.voice ∧ t.valid = s.valid) ∧
    (c.writesRecord = false → t.rb = s.rb ∧ ∀ a, t.rb.read a = s.rb.read a)

/-- The core raises nothing: a step stops with a fault only for a host read of a value that does not exist, a `DECODE`
of a record not fully written, or a host access beyond the record, and is refused only for a slice of a bank that was
not accepted or with an index or slot out of range (R114, R240, R247, R269, R270). The read back of an unwritten byte,
the address fault and the refusals are the model's stops (notes/assumptions/7.md, notes/assumptions/8.md). -/
def Obligations.StepsStopOnlyWhereTheHostErred : Prop :=
  ∀ (s : State),
    (∀ f, step s = .fault f → ∃ c rest, s.pending = c :: rest ∧
      ((f = .unwritten ∧ (c = .decode ∧ s.rb.complete = false ∨
          (∃ a, c = .recRead a ∧ s.rb.read a = none) ∨
          s.valid = false ∧ ((∃ r, c = .read r) ∨ (∃ d, c = .fine d) ∨ ∃ d, c = .fineDec d))) ∨
       ∃ a, 128 ≤ a ∧ f = .noSuchAddress a ∧ (c = .recRead a ∨ ∃ v, c = .recWrite a v))) ∧
    (∀ r, step s = .refused r → ∃ c rest buf k, s.pending = c :: rest ∧
      ((r = .bankNotAccepted ∧ buf ∉ s.banks ∧ (c = .loadSlice buf k ∨ c = .loadSlot buf k)) ∨
       (r = .sliceOutOfRange k ∧ (c = .loadSlice buf k ∧ 32 ≤ k ∨ c = .loadSlot buf k ∧ (k = 0 ∨ 32 < k)))))

/-- A host program runs to its end, or to the unreadable bank at which the host gives up, exactly when it keeps the
host's duties: load fully before decode, decode before read, validate before slicing, operands in range (R265, R268
to R270). That breaking the last two, or reading back an unwritten byte, stops the run is the model's choice, and so is
what the host holds (notes/assumptions/7.md, notes/assumptions/8.md). -/
def Obligations.HostProgramRunsExactlyWhenDutiesAreKept : Prop :=
  ∀ s : State, (∃ t, Host.Core.run core s.pending.length s = .next t ∧ t.pending = []) ↔
    (dutyOf s).obeyed s.pending = true

/-! ### The report (44_report_renderer.md) -/

/-- Every output register appears in exactly one section of the report (R234): the registers of the sections are the
145, once each; a section is the same for Voices that agree on its registers; and the text of each item and of each
cell (what that is, `ShownTextIsAFunctionOfItsRegister` says) stands in a line of it, with only trailing whitespace of
a table row removed. That an item's value stands right after its label, or its label fitted to the label width, is the
model's choice (notes/assumptions/11.md). -/
def Obligations.ReportShowsEveryRegisterOnce : Prop :=
  ((reportSections.flatMap ReportSection.regs).Perm allRegs ∧ allRegs.length = 145 ∧ reportSections.Nodup) ∧
  (∀ (p : RenderParams) (x y : ReportInput) (sec : ReportSection),
    x.label = y.label → x.index = y.index → x.tie = y.tie →
    (∀ r ∈ sec.regs, readReg x.voice r = readReg y.voice r) → sectionLines p x sec = sectionLines p y sec) ∧
  (∀ (p : RenderParams) (x : ReportInput) (sec : ReportSection),
    (∀ it ∈ sec.items, ∃ line ∈ sectionLines p x sec, itemTitle p it ++ itemText p x it <:+: line ∨
      fitLabel p (itemTitle p it) ++ itemText p x it <:+: line) ∧
    (∀ row ∈ sec.rows, ∃ line, trimEnd line ∈ sectionLines p x sec ∧
      ∀ d : Fin 6, cellText p (x.tie d) x.voice.op[d] row <:+: line))

/-- What each table cell and each item shows, as a function of what the registers read (R222 to R228): `BP` as a note
or `N/A`, the curves and the wave as the strings given for them, `MODE` as RATIO or FIXED, `TUNE` with its sign,
`COARSE` at 2 places (R210), the fine value at 2 or 3 (R201, R204, R207), the flags as the words given, the name as
characters, `C3`, the label and the slot as they are, every other register in decimal, which is the model's choice
(notes/assumptions/11.md). So Voices in which the register of an item or cell reads the same give it the same text, and
the fine value needs `MODE` and `COARSE` beside `FINE_RAW`. -/
def Obligations.ShownTextIsAFunctionOfItsRegister : Prop :=
  (∀ (p : RenderParams) (up : Bool) (v : Voice) (d : Fin 6) (row : TableRow),
    cellText p up v.op[d] row = cellRef p up (readReg v) d row) ∧
  (∀ (p : RenderParams) (x : ReportInput) (it : ReportItem),
    itemText p x it = itemRef p x.label x.index (readReg x.voice) it) ∧
  (∀ (p : RenderParams) (x y : ReportInput) (it : ReportItem), x.label = y.label → x.index = y.index →
    (∀ r, it.reg = some r → readReg x.voice r = readReg y.voice r) → itemText p x it = itemText p y it) ∧
  (∀ (p : RenderParams) (up : Bool) (v w : Voice) (d : Fin 6) (row : TableRow),
    readReg v (row.reg d) = readReg w (row.reg d) →
    (row = .fine → readReg v (.mode d) = readReg w (.mode d) ∧ readReg v (.coarse d) = readReg w (.coarse d)) →
    cellText p up v.op[d] row = cellText p up w.op[d] row)

/-- The report is made of the output registers while `VALID = 1`, for any label and any slot 1 to 32, and of nothing
else of the state; while `VALID = 0` there is no Voice to read (R220, R232, R247). The labels and column names the
document fixes are those (R224, R228); that the line of column names stands in all four tables is the model's choice
(notes/assumptions/11.md). -/
def Obligations.ReportIsOfTheValidVoice : Prop :=
  (∀ (p : RenderParams) (tie : Fin 6 → Bool) (label : Text) (k : Fin 32) (s : State),
    (s.valid = true → ∃ text, s.report p tie label k = .next text ∧
      ∀ t : State, t.valid = true → t.voice = s.voice → t.report p tie label k = .next text) ∧
    (s.valid = false → s.report p tie label k = .fault .unwritten)) ∧
  (∀ x : ReportInput, 1 ≤ x.slot ∧ x.slot ≤ 32 ∧ x.slot = x.index + 1) ∧
  (∀ (p : RenderParams) (sec : ReportSection), sec.rows ≠ [] → ∀ x, titleLine p ∈ sectionLines p x sec) ∧
  (∀ p : RenderParams, titleLine p = trimEnd (fitLabel p p.cornerLabel ++
    (["OP1", "OP2", "OP3", "OP4", "OP5", "OP6"].flatMap fun t => fitCell p t.toList)) ∧
    (List.finRange 4).map (fun j => itemTitle p (.pegr j)) = ["R1", "R2", "R3", "R4"].map String.toList ∧
    (List.finRange 4).map (fun j => itemTitle p (.pegl j)) = ["L1", "L2", "L3", "L4"].map String.toList)
end

