-- ==== Sys2Proof/Laws/State.lean ====
section
/-!
SUPPORT. One lemma per field of `State` per update operation, so that no later proof unfolds a record update.
-/

namespace Sys2Proof.Machine

/-! ### `State.modifyOp` -/

@[simp] theorem State.modifyOp_rb (s : State) (d : Fin 6) (f : OpBank → OpBank) :
    (s.modifyOp d f).rb = s.rb := rfl
@[simp] theorem State.modifyOp_valid (s : State) (d : Fin 6) (f : OpBank → OpBank) :
    (s.modifyOp d f).valid = s.valid := rfl
@[simp] theorem State.modifyOp_params (s : State) (d : Fin 6) (f : OpBank → OpBank) :
    (s.modifyOp d f).params = s.params := rfl
@[simp] theorem State.modifyOp_draws (s : State) (d : Fin 6) (f : OpBank → OpBank) :
    (s.modifyOp d f).draws = s.draws := rfl
@[simp] theorem State.modifyOp_banks (s : State) (d : Fin 6) (f : OpBank → OpBank) :
    (s.modifyOp d f).banks = s.banks := rfl
@[simp] theorem State.modifyOp_pending (s : State) (d : Fin 6) (f : OpBank → OpBank) :
    (s.modifyOp d f).pending = s.pending := rfl
@[simp] theorem State.modifyOp_replies (s : State) (d : Fin 6) (f : OpBank → OpBank) :
    (s.modifyOp d f).replies = s.replies := rfl

@[simp] theorem State.modifyOp_voice_pegr (s : State) (d : Fin 6) (f : OpBank → OpBank) :
    (s.modifyOp d f).voice.pegr = s.voice.pegr := rfl
@[simp] theorem State.modifyOp_voice_pegl (s : State) (d : Fin 6) (f : OpBank → OpBank) :
    (s.modifyOp d f).voice.pegl = s.voice.pegl := rfl
@[simp] theorem State.modifyOp_voice_alg (s : State) (d : Fin 6) (f : OpBank → OpBank) :
    (s.modifyOp d f).voice.alg = s.voice.alg := rfl
@[simp] theorem State.modifyOp_voice_fb (s : State) (d : Fin 6) (f : OpBank → OpBank) :
    (s.modifyOp d f).voice.fb = s.voice.fb := rfl
@[simp] theorem State.modifyOp_voice_osync (s : State) (d : Fin 6) (f : OpBank → OpBank) :
    (s.modifyOp d f).voice.osync = s.voice.osync := rfl
@[simp] theorem State.modifyOp_voice_lfo (s : State) (d : Fin 6) (f : OpBank → OpBank) :
    (s.modifyOp d f).voice.lfo = s.voice.lfo := rfl
@[simp] theorem State.modifyOp_voice_pms (s : State) (d : Fin 6) (f : OpBank → OpBank) :
    (s.modifyOp d f).voice.pms = s.voice.pms := rfl
@[simp] theorem State.modifyOp_voice_name (s : State) (d : Fin 6) (f : OpBank → OpBank) :
    (s.modifyOp d f).voice.name = s.voice.name := rfl
@[simp] theorem State.modifyOp_voice_nameLen (s : State) (d : Fin 6) (f : OpBank → OpBank) :
    (s.modifyOp d f).voice.nameLen = s.voice.nameLen := rfl
@[simp] theorem State.modifyOp_voice_op (s : State) (d : Fin 6) (f : OpBank → OpBank) :
    (s.modifyOp d f).voice.op = s.voice.op.set d (f s.voice.op[d]) := rfl

/-- The bank that was changed. -/
@[simp] theorem State.modifyOp_op_same (s : State) (d : Fin 6) (f : OpBank → OpBank) :
    (s.modifyOp d f).voice.op[d] = f s.voice.op[d] := by
  simp

/-- Every other bank. -/
theorem State.modifyOp_op_other (s : State) (d e : Fin 6) (f : OpBank → OpBank) (h : e ≠ d) :
    (s.modifyOp d f).voice.op[e] = s.voice.op[e] := by
  have : (d : Nat) ≠ e := fun he => h (Fin.ext he.symm)
  simp [this]

/-! ### `State.modifyVoice` -/

@[simp] theorem State.modifyVoice_rb (s : State) (f : Voice → Voice) :
    (s.modifyVoice f).rb = s.rb := rfl
@[simp] theorem State.modifyVoice_valid (s : State) (f : Voice → Voice) :
    (s.modifyVoice f).valid = s.valid := rfl
@[simp] theorem State.modifyVoice_params (s : State) (f : Voice → Voice) :
    (s.modifyVoice f).params = s.params := rfl
@[simp] theorem State.modifyVoice_draws (s : State) (f : Voice → Voice) :
    (s.modifyVoice f).draws = s.draws := rfl
@[simp] theorem State.modifyVoice_banks (s : State) (f : Voice → Voice) :
    (s.modifyVoice f).banks = s.banks := rfl
@[simp] theorem State.modifyVoice_pending (s : State) (f : Voice → Voice) :
    (s.modifyVoice f).pending = s.pending := rfl
@[simp] theorem State.modifyVoice_replies (s : State) (f : Voice → Voice) :
    (s.modifyVoice f).replies = s.replies := rfl
@[simp] theorem State.modifyVoice_voice (s : State) (f : Voice → Voice) :
    (s.modifyVoice f).voice = f s.voice := rfl

/-! ### `State.modifyLfo` -/

@[simp] theorem State.modifyLfo_rb (s : State) (f : Lfo → Lfo) :
    (s.modifyLfo f).rb = s.rb := rfl
@[simp] theorem State.modifyLfo_valid (s : State) (f : Lfo → Lfo) :
    (s.modifyLfo f).valid = s.valid := rfl
@[simp] theorem State.modifyLfo_params (s : State) (f : Lfo → Lfo) :
    (s.modifyLfo f).params = s.params := rfl
@[simp] theorem State.modifyLfo_draws (s : State) (f : Lfo → Lfo) :
    (s.modifyLfo f).draws = s.draws := rfl
@[simp] theorem State.modifyLfo_banks (s : State) (f : Lfo → Lfo) :
    (s.modifyLfo f).banks = s.banks := rfl
@[simp] theorem State.modifyLfo_pending (s : State) (f : Lfo → Lfo) :
    (s.modifyLfo f).pending = s.pending := rfl
@[simp] theorem State.modifyLfo_replies (s : State) (f : Lfo → Lfo) :
    (s.modifyLfo f).replies = s.replies := rfl

@[simp] theorem State.modifyLfo_voice_op (s : State) (f : Lfo → Lfo) :
    (s.modifyLfo f).voice.op = s.voice.op := rfl
@[simp] theorem State.modifyLfo_voice_pegr (s : State) (f : Lfo → Lfo) :
    (s.modifyLfo f).voice.pegr = s.voice.pegr := rfl
@[simp] theorem State.modifyLfo_voice_pegl (s : State) (f : Lfo → Lfo) :
    (s.modifyLfo f).voice.pegl = s.voice.pegl := rfl
@[simp] theorem State.modifyLfo_voice_alg (s : State) (f : Lfo → Lfo) :
    (s.modifyLfo f).voice.alg = s.voice.alg := rfl
@[simp] theorem State.modifyLfo_voice_fb (s : State) (f : Lfo → Lfo) :
    (s.modifyLfo f).voice.fb = s.voice.fb := rfl
@[simp] theorem State.modifyLfo_voice_osync (s : State) (f : Lfo → Lfo) :
    (s.modifyLfo f).voice.osync = s.voice.osync := rfl
@[simp] theorem State.modifyLfo_voice_pms (s : State) (f : Lfo → Lfo) :
    (s.modifyLfo f).voice.pms = s.voice.pms := rfl
@[simp] theorem State.modifyLfo_voice_name (s : State) (f : Lfo → Lfo) :
    (s.modifyLfo f).voice.name = s.voice.name := rfl
@[simp] theorem State.modifyLfo_voice_nameLen (s : State) (f : Lfo → Lfo) :
    (s.modifyLfo f).voice.nameLen = s.voice.nameLen := rfl
@[simp] theorem State.modifyLfo_voice_lfo (s : State) (f : Lfo → Lfo) :
    (s.modifyLfo f).voice.lfo = f s.voice.lfo := rfl

/-! ### `State.reply` -/

@[simp] theorem State.reply_rb (s : State) (r : Reply) :
    (s.reply r).rb = s.rb := rfl
@[simp] theorem State.reply_valid (s : State) (r : Reply) :
    (s.reply r).valid = s.valid := rfl
@[simp] theorem State.reply_params (s : State) (r : Reply) :
    (s.reply r).params = s.params := rfl
@[simp] theorem State.reply_draws (s : State) (r : Reply) :
    (s.reply r).draws = s.draws := rfl
@[simp] theorem State.reply_banks (s : State) (r : Reply) :
    (s.reply r).banks = s.banks := rfl
@[simp] theorem State.reply_pending (s : State) (r : Reply) :
    (s.reply r).pending = s.pending := rfl
@[simp] theorem State.reply_voice (s : State) (r : Reply) :
    (s.reply r).voice = s.voice := rfl
@[simp] theorem State.reply_replies (s : State) (r : Reply) :
    (s.reply r).replies = s.replies ++ [r] := rfl

/-! ### `State.loadRec` -/

@[simp] theorem State.loadRec_valid (s : State) (record : Vector Byte 128) :
    (s.loadRec record).valid = s.valid := rfl
@[simp] theorem State.loadRec_params (s : State) (record : Vector Byte 128) :
    (s.loadRec record).params = s.params := rfl
@[simp] theorem State.loadRec_draws (s : State) (record : Vector Byte 128) :
    (s.loadRec record).draws = s.draws := rfl
@[simp] theorem State.loadRec_banks (s : State) (record : Vector Byte 128) :
    (s.loadRec record).banks = s.banks := rfl
@[simp] theorem State.loadRec_pending (s : State) (record : Vector Byte 128) :
    (s.loadRec record).pending = s.pending := rfl
@[simp] theorem State.loadRec_replies (s : State) (record : Vector Byte 128) :
    (s.loadRec record).replies = s.replies := rfl
@[simp] theorem State.loadRec_voice (s : State) (record : Vector Byte 128) :
    (s.loadRec record).voice = s.voice := rfl
@[simp] theorem State.loadRec_rb (s : State) (record : Vector Byte 128) :
    (s.loadRec record).rb = s.rb.writeBytes 0 record.toList := rfl

/-! ### `State.rejectBank` -/

@[simp] theorem State.rejectBank_rb (s : State) (w : Rejection) : (s.rejectBank w).rb = s.rb := by
  cases w <;> rfl
@[simp] theorem State.rejectBank_voice (s : State) (w : Rejection) : (s.rejectBank w).voice = s.voice := by
  cases w <;> rfl
@[simp] theorem State.rejectBank_valid (s : State) (w : Rejection) : (s.rejectBank w).valid = s.valid := by
  cases w <;> rfl
@[simp] theorem State.rejectBank_params (s : State) (w : Rejection) : (s.rejectBank w).params = s.params := by
  cases w <;> rfl
@[simp] theorem State.rejectBank_draws (s : State) (w : Rejection) : (s.rejectBank w).draws = s.draws := by
  cases w <;> rfl
@[simp] theorem State.rejectBank_banks (s : State) (w : Rejection) : (s.rejectBank w).banks = s.banks := by
  cases w <;> rfl
@[simp] theorem State.rejectBank_pending (s : State) (w : Rejection) :
    (s.rejectBank w).pending = if w = .sourceUnreadable then [] else s.pending := by
  cases w <;> rfl
@[simp] theorem State.rejectBank_replies (s : State) (w : Rejection) :
    (s.rejectBank w).replies = s.replies ++ [.rejected w] := by
  cases w <;> rfl

end Sys2Proof.Machine
end

