-- ==== Sys2Proof/Laws/Ops.lean ====
section
/-!
SUPPORT. What the memory operations can do, said once: reading after writing, the canonical form, runs of bytes,
completeness; and the spec lemmas of the field computations and of `validate`-free host operations.
-/

namespace Sys2Proof.Machine

/-! ### One byte -/

@[simp] theorem Memory.read_nil (a : Nat) : Memory.read [] a = none := rfl

theorem Memory.read_cons (c : Host.Cell) (m : Memory) (a : Nat) :
    Memory.read (c :: m) a = if c.1 = a then some c.2 else Memory.read m a := rfl

theorem Memory.read_write_same (m : Memory) (a : Nat) (v : Byte) : (m.write a v).read a = some v := by
  induction m with
  | nil => simp [Memory.write, Memory.read]
  | cons c m ih =>
    unfold Memory.write
    split
    · simp [Memory.read]
    · split
      · simp [Memory.read]
      · rename_i h1 h2
        rw [Memory.read_cons, if_neg (fun h => h2 h.symm), ih]

theorem Memory.read_write_other (m : Memory) (a b : Nat) (v : Byte) (h : b ≠ a) :
    (m.write a v).read b = m.read b := by
  induction m with
  | nil => simp [Memory.write, Memory.read, h.symm]
  | cons c m ih =>
    unfold Memory.write
    split
    · rw [Memory.read_cons, if_neg (Ne.symm h)]
    · split
      · rename_i h1 h2
        rw [Memory.read_cons, Memory.read_cons, if_neg (Ne.symm h), if_neg (h2 ▸ Ne.symm h)]
      · rw [Memory.read_cons, Memory.read_cons, ih]

/-- Reading after a write, in one equation. -/
theorem Memory.read_write (m : Memory) (a b : Nat) (v : Byte) :
    (m.write a v).read b = if b = a then some v else m.read b := by
  split
  · next h => rw [h, Memory.read_write_same]
  · next h => exact Memory.read_write_other m a b v h

/-! ### The canonical form -/

/-- Every address a write can produce above a bound is above it. -/
theorem Memory.write_head (m : Memory) (a : Nat) (v : Byte) (k : Nat) (hk : k < a)
    (h : ∀ c ∈ m.head?, k < c.1) : ∀ c ∈ (m.write a v).head?, k < c.1 := by
  cases m with
  | nil => simpa [Memory.write] using hk
  | cons c m =>
    unfold Memory.write
    split
    · simpa using hk
    · split
      · simpa using hk
      · simpa using h

theorem Memory.wf_cons (c : Host.Cell) (m : Memory) :
    Memory.wf (c :: m) = true ↔ (∀ d ∈ m.head?, c.1 < d.1) ∧ Memory.wf m = true := by
  cases m with
  | nil => simp [Memory.wf]
  | cons d m => simp [Memory.wf]

/-- A write keeps the addresses strictly rising. -/
theorem Memory.write_wf (m : Memory) (a : Nat) (v : Byte) (h : m.wf = true) : (m.write a v).wf = true := by
  induction m with
  | nil => rfl
  | cons c m ih =>
    obtain ⟨hh, ht⟩ := (Memory.wf_cons c m).1 h
    unfold Memory.write
    split
    · next hlt => exact (Memory.wf_cons _ _).2 ⟨by simpa using hlt, h⟩
    · split
      · next heq => exact (Memory.wf_cons _ _).2 ⟨by simpa [heq] using hh, ht⟩
      · next h1 h2 =>
        exact (Memory.wf_cons _ _).2 ⟨Memory.write_head m a v c.1 (by omega) hh, ih ht⟩

/-- A write inside `RB[0..127]` keeps every address there. -/
theorem Memory.write_inRecord (m : Memory) (a : Nat) (v : Byte) (ha : a < Config.recSize)
    (h : m.inRecord = true) : (m.write a v).inRecord = true := by
  induction m with
  | nil => simpa [Memory.write, Memory.inRecord] using ha
  | cons c m ih =>
    simp only [Memory.inRecord, List.all_cons, Bool.and_eq_true] at h
    unfold Memory.write
    split
    · simp [Memory.inRecord, ha, h.1, h.2]
    · split
      · simpa [Memory.inRecord, ha] using h.2
      · simp only [Memory.inRecord, List.all_cons, Bool.and_eq_true]
        exact ⟨h.1, ih h.2⟩

/-! ### Runs of bytes -/

theorem Memory.writeBytes_wf (m : Memory) (a : Nat) (bs : List Byte) (h : m.wf = true) :
    (m.writeBytes a bs).wf = true := by
  induction bs generalizing m a with
  | nil => exact h
  | cons b bs ih => exact ih _ _ (Memory.write_wf m a b h)

theorem Memory.writeBytes_inRecord (m : Memory) (a : Nat) (bs : List Byte) (ha : a + bs.length ≤ Config.recSize)
    (h : m.inRecord = true) : (m.writeBytes a bs).inRecord = true := by
  induction bs generalizing m a with
  | nil => exact h
  | cons b bs ih =>
    simp only [List.length_cons] at ha
    exact ih _ _ (by omega) (Memory.write_inRecord m a b (by omega) h)

/-- Reading after a run of writes. -/
theorem Memory.read_writeBytes (m : Memory) (a : Nat) (bs : List Byte) (b : Nat) :
    (m.writeBytes a bs).read b = if a ≤ b ∧ b < a + bs.length then bs[b - a]? else m.read b := by
  induction bs generalizing m a with
  | nil =>
    have : ¬ (a ≤ b ∧ b < a + ([] : List Byte).length) := by simp
    rw [if_neg this]; rfl
  | cons v bs ih =>
    rw [Memory.writeBytes, ih, Memory.read_write]
    by_cases hb : b = a
    · subst hb
      simp
    · by_cases h : a + 1 ≤ b ∧ b < a + 1 + bs.length
      · have h' : a ≤ b ∧ b < a + (v :: bs).length := by simp only [List.length_cons]; omega
        rw [if_pos h, if_pos h']
        obtain ⟨k, rfl⟩ : ∃ k, b = a + 1 + k := ⟨b - (a + 1), by omega⟩
        rw [show a + 1 + k - a = k + 1 by omega, show a + 1 + k - (a + 1) = k by omega]
        simp
      · have h' : ¬ (a ≤ b ∧ b < a + (v :: bs).length) := by simp only [List.length_cons]; omega
        rw [if_neg h, if_neg h', if_neg hb]

/-- A run of bytes reads as a list exactly when each of them reads. -/
theorem Memory.readBytes_eq_some (m : Memory) (a n : Nat) (bs : List Byte) :
    m.readBytes a n = some bs ↔ bs.length = n ∧ ∀ k, k < n → m.read (a + k) = bs[k]? := by
  induction n generalizing a bs with
  | zero =>
    simp only [Memory.readBytes, Option.some.injEq]
    constructor
    · rintro rfl; simp
    · rintro ⟨h, _⟩; exact (List.length_eq_zero_iff.1 h).symm
  | succ n ih =>
    unfold Memory.readBytes
    constructor
    · intro h
      split at h
      · next b cs hb hcs =>
        cases h
        obtain ⟨hl, hr⟩ := (ih (a + 1) cs).1 hcs
        refine ⟨by simp [hl], fun k hk => ?_⟩
        cases k with
        | zero => simpa using hb
        | succ k => simpa [Nat.add_assoc, Nat.add_comm 1 k] using hr k (by omega)
      · cases h
    · rintro ⟨hl, hr⟩
      cases bs with
      | nil => simp at hl
      | cons b cs =>
        have h0 := hr 0 (by omega)
        have hcs : m.readBytes (a + 1) n = some cs :=
          (ih (a + 1) cs).2 ⟨by simpa using hl, fun k hk => by
            simpa [Nat.add_assoc, Nat.add_comm 1 k] using hr (k + 1) (by omega)⟩
        simp at h0
        rw [h0, hcs]

/-- `RB` is complete exactly when every address of it reads. -/
theorem Memory.complete_iff (m : Memory) :
    m.complete = true ↔ ∀ a, a < Config.recSize → (m.read a).isSome = true := by
  simp [Memory.complete]

/-- A complete `RB` holds a record of 128 bytes, and conversely. -/
theorem Memory.complete_iff_record (m : Memory) : m.complete = true ↔ ∃ record, m.record = some record := by
  rw [Memory.complete_iff]
  constructor
  · intro h
    refine ⟨(List.range Config.recSize).map fun a => (m.read a).getD 0, ?_⟩
    refine (Memory.readBytes_eq_some _ _ _ _).2 ⟨by simp, fun k hk => ?_⟩
    obtain ⟨b, hb⟩ := Option.isSome_iff_exists.1 (h k hk)
    simp [hk, hb]
  · rintro ⟨record, hr⟩ a ha
    obtain ⟨hl, h⟩ := (Memory.readBytes_eq_some _ _ _ _).1 hr
    have := h a ha
    rw [Nat.zero_add] at this
    rw [this]
    simp [hl, ha]

/-! ### Field computations -/

/-- A field is the spec's slice of the byte as an integer (00_scope.md section 4). -/
theorem field_toNat (b : Byte) (lo w : Nat) : (field b lo w).toNat = b.toNat / 2 ^ lo % 2 ^ w := by
  simp [field, BitVec.extractLsb'_toNat, Nat.shiftRight_eq_div_pow]

/-- Taking back a field that was put into a byte it fits in. -/
theorem field_place {w : Nat} (v : BitVec w) (lo : Nat) (h : lo + w ≤ 8) : field (place v lo) lo w = v := by
  apply BitVec.eq_of_getLsbD_eq
  intro k hk
  have h1 : lo + k < 8 := by omega
  simp [field, place, hk, h1]

end Sys2Proof.Machine
end

