-- ==== Sys2Proof/Laws/PerInstr.lean ====
section
/-!
SUPPORT. Statements about every instruction as syntax, one lemma per constructor.
-/

namespace Sys2Proof.Laws.SiteInRecord

open Sys2Proof Sys2Proof.Machine

/-- The bytes an instruction is wired to lie in `RB[0..127]`: no address computation leaves it (20_memory.md rule
R63), and its encoding is as many bytes as its site reads (30_encoding.md rule R102). -/
def Statement (i : Instr) : Prop :=
  siteAddr i.site + siteLength i.site ≤ Config.recSize ∧ (encode i).length = siteLength i.site

/-- Every operator site lies in the record and reads one byte. -/
theorem operator_site (r : Fin 21) (i : Fin 6) :
    siteAddr ⟨r, i⟩ + siteLength ⟨r, i⟩ ≤ Config.recSize ∧ siteLength ⟨r, i⟩ = 1 := by
  revert r i; decide

/-- Every one-byte voice-global site lies in the record and reads one byte. -/
theorem global_site (r : Fin 19) :
    siteAddr ⟨21 + r, 0⟩ + siteLength ⟨21 + r, 0⟩ ≤ Config.recSize ∧ siteLength ⟨21 + r, 0⟩ = 1 := by
  revert r; decide

theorem xegr (i : Fin 6) (j : Fin 4) (v : Byte) : Statement (.xegr i j v) :=
  let h := operator_site (Fin.castLE (by omega) j) i
  ⟨h.1, h.2.symm⟩
theorem xegl (i : Fin 6) (j : Fin 4) (v : Byte) : Statement (.xegl i j v) :=
  let h := operator_site (Fin.natAdd 4 (Fin.castLE (by omega : 4 ≤ 17) j)) i
  ⟨h.1, h.2.symm⟩
theorem xbp (i : Fin 6) (v : Byte) : Statement (.xbp i v) :=
  let h := operator_site (8) i
  ⟨h.1, h.2.symm⟩
theorem xld (i : Fin 6) (v : Byte) : Statement (.xld i v) :=
  let h := operator_site (9) i
  ⟨h.1, h.2.symm⟩
theorem xrd (i : Fin 6) (v : Byte) : Statement (.xrd i v) :=
  let h := operator_site (10) i
  ⟨h.1, h.2.symm⟩
theorem xlc (i : Fin 6) (l : BitVec 2) : Statement (.xlc i l) :=
  let h := operator_site (11) i
  ⟨h.1, h.2.symm⟩
theorem xrc (i : Fin 6) (r : BitVec 2) : Statement (.xrc i r) :=
  let h := operator_site (12) i
  ⟨h.1, h.2.symm⟩
theorem xtune (i : Fin 6) (t : BitVec 4) : Statement (.xtune i t) :=
  let h := operator_site (13) i
  ⟨h.1, h.2.symm⟩
theorem xrs (i : Fin 6) (r : BitVec 3) : Statement (.xrs i r) :=
  let h := operator_site (14) i
  ⟨h.1, h.2.symm⟩
theorem xams (i : Fin 6) (a : BitVec 2) : Statement (.xams i a) :=
  let h := operator_site (15) i
  ⟨h.1, h.2.symm⟩
theorem xkvs (i : Fin 6) (k : BitVec 3) : Statement (.xkvs i k) :=
  let h := operator_site (16) i
  ⟨h.1, h.2.symm⟩
theorem xlvl (i : Fin 6) (v : Byte) : Statement (.xlvl i v) :=
  let h := operator_site (17) i
  ⟨h.1, h.2.symm⟩
theorem xmode (i : Fin 6) (m : BitVec 1) : Statement (.xmode i m) :=
  let h := operator_site (18) i
  ⟨h.1, h.2.symm⟩
theorem xcoarse (i : Fin 6) (c : BitVec 7) (m : BitVec 1) : Statement (.xcoarse i c m) :=
  let h := operator_site (19) i
  ⟨h.1, h.2.symm⟩
theorem xfine (i : Fin 6) (v : Byte) : Statement (.xfine i v) :=
  let h := operator_site (20) i
  ⟨h.1, h.2.symm⟩
theorem gpegr (j : Fin 4) (v : Byte) : Statement (.gpegr j v) :=
  let h := global_site (Fin.castLE (by omega) j)
  ⟨h.1, h.2.symm⟩
theorem gpegl (j : Fin 4) (v : Byte) : Statement (.gpegl j v) := by
  fin_cases j
  · exact ⟨(global_site 4).1, (global_site 4).2.symm⟩
  · exact ⟨(global_site 5).1, (global_site 5).2.symm⟩
  · exact ⟨(global_site 6).1, (global_site 6).2.symm⟩
  · exact ⟨(global_site 7).1, (global_site 7).2.symm⟩
theorem galg (a : BitVec 5) : Statement (.galg a) :=
  let h := global_site (8)
  ⟨h.1, h.2.symm⟩
theorem gfb (f : BitVec 3) : Statement (.gfb f) :=
  let h := global_site (9)
  ⟨h.1, h.2.symm⟩
theorem gosync (o : BitVec 1) : Statement (.gosync o) :=
  let h := global_site (10)
  ⟨h.1, h.2.symm⟩
theorem glspd (v : Byte) : Statement (.glspd v) :=
  let h := global_site (11)
  ⟨h.1, h.2.symm⟩
theorem gldly (v : Byte) : Statement (.gldly v) :=
  let h := global_site (12)
  ⟨h.1, h.2.symm⟩
theorem glpmd (v : Byte) : Statement (.glpmd v) :=
  let h := global_site (13)
  ⟨h.1, h.2.symm⟩
theorem glamd (v : Byte) : Statement (.glamd v) :=
  let h := global_site (14)
  ⟨h.1, h.2.symm⟩
theorem glsync (b : BitVec 1) : Statement (.glsync b) :=
  let h := global_site (15)
  ⟨h.1, h.2.symm⟩
theorem glwave (w : BitVec 3) : Statement (.glwave w) :=
  let h := global_site (16)
  ⟨h.1, h.2.symm⟩
theorem gpms (src : PmsSource) (p : BitVec 3) : Statement (.gpms src p) := by
  cases src
  · exact ⟨(global_site 17).1, (global_site 17).2.symm⟩
  · exact ⟨(global_site 18).1, (global_site 18).2.symm⟩
theorem gname (n : Vector Byte 10) : Statement (.gname n) := by
  refine ⟨(by decide : siteAddr ⟨40, 0⟩ + siteLength ⟨40, 0⟩ ≤ Config.recSize), ?_⟩
  rw [show (encode (.gname n)).length = 10 by simp [encode]]
  exact (by decide : 10 = siteLength ⟨40, 0⟩)

end Sys2Proof.Laws.SiteInRecord
end

