-- ==== Sys2Proof/Laws/Report.lean ====
section
/-!
SUPPORT. What the report's functions give, said once: where a section's body and its headings stand, what a line of an
operator table contains, when there is a report.
-/

namespace Sys2Proof.Machine

/-- The lines of a section are its rule lines, its heading and its body. -/
theorem mem_sectionLines (p : RenderParams) (x : ReportInput) (sec : ReportSection) (line : Text) :
    line ∈ sectionLines p x sec ↔
      (∃ b ∈ p.rulesAbove sec ++ p.rulesBelow sec, line = ruleLine p b) ∨
      (∃ t, p.heading sec = some t ∧ line = centre p t) ∨ line ∈ sectionBody p x sec := by
  simp only [sectionLines, List.mem_append, List.mem_map, Option.mem_toList, Option.map_eq_some_iff, eq_comm (a := line)]
  constructor
  · rintro (((⟨b, hb, h⟩ | h) | h) | ⟨b, hb, h⟩)
    exacts [.inl ⟨b, .inl hb, h⟩, .inr (.inl h), .inr (.inr h), .inl ⟨b, .inr hb, h⟩]
  · rintro (⟨b, hb | hb, h⟩ | h | h)
    exacts [.inl (.inl (.inl ⟨b, hb, h⟩)), .inr ⟨b, hb, h⟩, .inl (.inl (.inr h)), .inl (.inr h)]

/-- A line of an operator table, before its trailing whitespace goes, contains the text of each of its columns. -/
theorem cell_infix_columns (p : RenderParams) (label : Text) (cell : Fin 6 → Text) (d : Fin 6) :
    cell d <:+: fitLabel p label ++ (List.finRange 6).flatMap fun e => fitCell p (cell e) := by
  have h : fitCell p (cell d) ∈ (List.finRange 6).map fun e => fitCell p (cell e) :=
    List.mem_map.2 ⟨d, List.mem_finRange d, rfl⟩
  rw [List.flatMap_def]
  exact ((List.prefix_append _ _).isInfix.trans (List.infix_of_mem_flatten h)).trans
    (List.suffix_append _ _).isInfix

/-- There is a report exactly while there is a Voice. -/
theorem State.report_eq_next (p : RenderParams) (tie : Fin 6 → Bool) (label : Text) (k : Fin 32) (s : State)
    (text : Text) :
    s.report p tie label k = .next text ↔
      s.valid = true ∧ render p { voice := s.voice, label := label, index := k, tie := tie } = text := by
  unfold State.report
  split
  · next h => simp [h]
  · next h => simp [h]

end Sys2Proof.Machine
end

