-- ==== Sys2Proof/Laws/Step.lean ====
section
/-!
SUPPORT. What fetching, running and stepping can do, said once: later proofs cite these and do not unfold `fetch`,
`fetchAll`, `execAll`, `cmdDecode` or `step`.
-/

namespace Sys2Proof.Machine

/-! ### Fetching -/

/-- A fetch gives an instruction exactly when its bytes are there and decode to it. -/
theorem fetch_eq_next (rb : Memory) (site : Site) (i : Instr) :
    fetch rb site = .next i ↔
      ∃ bytes, rb.readBytes (siteAddr site) (siteLength site) = some bytes ∧ decode site bytes = .ok i := by
  unfold fetch
  constructor
  · intro h
    split at h
    · cases h
    · next bytes hb =>
      split at h
      · next j hj => cases h; exact ⟨bytes, hb, hj⟩
      · cases h
  · rintro ⟨bytes, hb, hd⟩
    simp [hb, hd]

/-- A list of fetches gives a program exactly when each site gives its instruction. -/
theorem fetchAll_eq_next (rb : Memory) (sites : List Site) (is : List Instr) :
    fetchAll rb sites = .next is ↔ List.Forall₂ (fun site i => fetch rb site = .next i) sites is := by
  induction sites generalizing is with
  | nil => cases is <;> simp [fetchAll]
  | cons site rest ih =>
    unfold fetchAll
    constructor
    · intro h
      split at h
      · next i hi =>
        split at h
        · next js hjs => cases h; exact .cons hi ((ih js).1 hjs)
        · cases h
        · cases h
      · cases h
      · cases h
    · intro h
      cases h with
      | cons hi hrest => simp [hi, (ih _).2 hrest]

/-! ### Running a program -/

@[simp] theorem execAll_nil (s : State) : execAll [] s = .next s := rfl

theorem execAll_cons_eq_next (i : Instr) (is : List Instr) (s t : State) :
    execAll (i :: is) s = .next t ↔ ∃ u, exec i s = .next u ∧ execAll is u = .next t := by
  rw [execAll]
  constructor
  · intro h
    split at h
    · next u hu => exact ⟨u, hu, h⟩
    · cases h
    · cases h
  · rintro ⟨u, hu, h⟩
    simp [hu, h]

theorem execAll_append_eq_next (is js : List Instr) (s t : State) :
    execAll (is ++ js) s = .next t ↔ ∃ u, execAll is s = .next u ∧ execAll js u = .next t := by
  induction is generalizing s with
  | nil => simp
  | cons i is ih =>
    rw [List.cons_append, execAll_cons_eq_next]
    constructor
    · rintro ⟨v, hv, h⟩
      obtain ⟨u, hu, ht⟩ := (ih v).1 h
      exact ⟨u, (execAll_cons_eq_next ..).2 ⟨v, hv, hu⟩, ht⟩
    · rintro ⟨u, hu, ht⟩
      obtain ⟨v, hv, hu'⟩ := (execAll_cons_eq_next ..).1 hu
      exact ⟨v, hv, (ih v).2 ⟨u, hu', ht⟩⟩

/-! ### Commands and steps -/

/-- What a `DECODE` that answers a next state did. -/
theorem cmdDecode_eq_next (s t : State) :
    cmdDecode s = .next t ↔ s.rb.complete = true ∧ ∃ is u, fetchProgram s.params.pmsSource s.rb = .next is ∧
      execAll is s = .next u ∧ t = { u with valid := true } := by
  unfold cmdDecode
  constructor
  · intro h
    split at h
    · next hc =>
      split at h
      · next is his =>
        split at h
        · next u hu => cases h; exact ⟨hc, is, u, his, hu, rfl⟩
        · cases h
        · cases h
      · cases h
      · cases h
    · cases h
  · rintro ⟨hc, is, u, his, hu, rfl⟩
    simp [hc, his, hu]

/-- A step with a command pending is that command, on the state without it. -/
theorem step_cons (s : State) (c : Command) (rest : List Command) (h : s.pending = c :: rest) :
    step s = runCommand c { s with pending := rest } := by
  simp [step, performNext, h]

/-- What a step that answers a next state did: nothing, or the host's next command. -/
theorem step_cases (s t : State) (h : step s = .next t) :
    (s.pending = [] ∧ t = s) ∨
      ∃ c rest, s.pending = c :: rest ∧ runCommand c { s with pending := rest } = .next t := by
  cases hp : s.pending with
  | nil =>
    simp only [step, performNext, hp] at h
    cases h
    exact .inl ⟨rfl, rfl⟩
  | cons c rest => exact .inr ⟨c, rest, rfl, step_cons s c rest hp ▸ h⟩

/-- A slice of the bank, when there is one, has the bytes of its bank addresses. -/
theorem sliceBank_eq_some (buf : List Byte) (k : Nat) (record : Vector Byte 128) :
    sliceBank buf k = some record ↔
      k < Config.nVoices ∧ ∀ a : Fin 128, record[a] = buf.getD (bankAddr k a) 0 := by
  unfold sliceBank
  split
  · next hk =>
    simp only [Option.some.injEq, hk, true_and]
    constructor
    · rintro rfl a; simp
    · intro h
      refine Vector.ext fun a ha => ?_
      simpa using (h ⟨a, ha⟩).symm
  · next hk => simp [hk]

/-- What a slice load that answers a next state did. -/
theorem cmdLoadSlice_eq_next (buf : List Byte) (k : Nat) (s t : State) :
    cmdLoadSlice buf k s = .next t ↔
      buf ∈ s.banks ∧ ∃ record, sliceBank buf k = some record ∧ t = s.loadRec record := by
  unfold cmdLoadSlice
  split
  · next hb =>
    have hm : buf ∈ s.banks := by simpa using hb
    cases h : sliceBank buf k with
    | none => simp
    | some record => simp [hm, eq_comm]
  · next hb => simpa using fun hm => absurd hm (by simpa using hb)

/-- Why a slice load is refused: the bank was not accepted, or the index is out of range. -/
theorem cmdLoadSlice_eq_refused (buf : List Byte) (k : Nat) (s : State) (r : Refusal) :
    cmdLoadSlice buf k s = .refused r ↔
      (r = .bankNotAccepted ∧ buf ∉ s.banks) ∨
      (r = .sliceOutOfRange k ∧ buf ∈ s.banks ∧ Config.nVoices ≤ k) := by
  unfold cmdLoadSlice sliceBank
  by_cases hm : buf ∈ s.banks <;> by_cases hk : k < Config.nVoices <;> simp [hm, hk, eq_comm]
  omega

end Sys2Proof.Machine
end

