-- ==== Sys2Proof/Tests/Slice0.lean ====
section
/-!
SUPPORT. The model's own tests: every constructor's decoding from a byte written out from the spec's encoding, one
step of each instruction and command, the vectors of 95_test_vectors.md (their expected values are the spec's), the
ill-formed terms that WellFormed refuses, and a witness for the hypotheses of each statement that has any.
-/

-- Theorems of this file are checked one after another: many at once would need a thread each.
set_option Elab.async false

namespace Sys2Proof.Tests

open Sys2Proof Sys2Proof.Machine

/-- Whether an outcome is a next state with a property. -/
def nextIs (o : Host.Outcome State Fault Refusal) (p : State → Bool) : Bool :=
  match o with
  | .next s => p s
  | _ => false

/-- Whether a fetch gives a program of 145 instructions. -/
def programIs (o : Host.Outcome (List Instr) Fault Refusal) : Bool :=
  match o with
  | .next is => is.length = 145
  | _ => false

/-- Whether an outcome is a given fault. -/
def faultIs (o : Host.Outcome State Fault Refusal) (f : Fault) : Bool :=
  match o with
  | .fault g => f = g
  | _ => false

/-- Whether an outcome is a given refusal. -/
def refusedIs (o : Host.Outcome State Fault Refusal) (r : Refusal) : Bool :=
  match o with
  | .refused q => r = q
  | _ => false

/-- Whether bytes decode at a site to an instruction. -/
def decodesTo (site : Site) (bytes : List Byte) (i : Instr) : Bool := (decode site bytes).toOption = some i

/-- Whether an instruction, run on the reset state, leaves a register with a value. -/
def gives (i : Instr) (r : OutReg) (v : RegValue) : Bool :=
  nextIs (exec i State.reset) fun t => readReg t.voice r = v

/-- A state whose record buffer holds the same byte at all 128 addresses, with commands pending. -/
def full (b : Byte) (cs : List Command) : State :=
  { State.reset with rb := Memory.writeBytes [] 0 (List.replicate 128 b), pending := cs }

/-- The reset state with commands pending. -/
def fresh (cs : List Command) : State := { State.reset with pending := cs }

/-- A state in which a Voice of given operator bank 0 is valid, with commands pending. -/
def voiced (o : OpBank) (cs : List Command) : State :=
  { State.reset with valid := true, pending := cs, voice := { Voice.blank with op := Voice.blank.op.set 0 o } }

/-- An operator bank with the three registers the transforms read. -/
def osc (mode : BitVec 1) (coarseX2 : BitVec 11) (n : Byte) : OpBank :=
  { OpBank.blank with mode := mode, coarseX2 := coarseX2, fineRaw := n }

/-- The test bank of program P5: record `k` is 128 bytes of `k`, then `00 F7`. -/
def bankP5 : List Byte :=
  Config.signature ++ (List.range 32).flatMap (fun k => List.replicate 128 (BitVec.ofNat 8 k)) ++ [0x00, 0xF7]

/-- The record of program P1 (95_test_vectors.md part 3). -/
def recordP1 : List Byte :=
  [0x01, 0x02, 0x03, 0x04, 0x63, 0x5A, 0x50, 0x00, 0x27, 0x00, 0x63, 0x04, 0x28, 0x08, 0x63, 0x00] ++
  [0x32, 0x0B, 0x0C, 0x0D, 0x0E, 0x63, 0x59, 0x4F, 0x00, 0x28, 0x05, 0x5E, 0x09, 0x31, 0x0D, 0x62] ++
  [0x02, 0x00, 0x15, 0x16, 0x17, 0x18, 0x63, 0x58, 0x4E, 0x00, 0x29, 0x0A, 0x59, 0x0E, 0x3A, 0x12] ++
  [0x61, 0x04, 0x19, 0x1F, 0x20, 0x21, 0x22, 0x63, 0x57, 0x4D, 0x00, 0x2A, 0x0F, 0x54, 0x03, 0x43] ++
  [0x17, 0x60, 0x05, 0x0A, 0x29, 0x2A, 0x2B, 0x2C, 0x63, 0x56, 0x4C, 0x00, 0x2B, 0x14, 0x4F, 0x04] ++
  [0x4C, 0x18, 0x5F, 0x1C, 0x63, 0x33, 0x34, 0x35, 0x36, 0x63, 0x55, 0x4B, 0x00, 0x2C, 0x19, 0x4A] ++
  [0x09, 0x55, 0x1D, 0x5E, 0x3E, 0x07, 0x5E, 0x43, 0x5F, 0x3C, 0x32, 0x32, 0x32, 0x32, 0xF5, 0x08] ++
  [0x25, 0x00, 0x05, 0x00, 0x39, 0x18, 0x42, 0x52, 0x41, 0x53, 0x53, 0x20, 0x20, 0x31, 0x20, 0x20]

/-! ### WellFormed: one ill-formed term for each check -/

theorem test_wf_refuses_other_straps_gpms : Instr.wf .b116Hi (.gpms .b117Lo 3) = false := by decide
theorem test_wf_refuses_ws_without_space : Params.wf { pmsSource := .b116Hi, ws := [0x09] } = false := by decide
theorem test_wf_refuses_recWrite_128 : Command.wf (.recWrite 128 0) = false := by decide
theorem test_wf_refuses_recRead_128 : Command.wf (.recRead 128) = false := by decide
theorem test_wf_refuses_slice_32 : Command.wf (.loadSlice [] 32) = false := by decide
theorem test_wf_refuses_slot_0 : Command.wf (.loadSlot [] 0) = false := by decide
theorem test_wf_refuses_slot_33 : Command.wf (.loadSlot [] 33) = false := by decide
theorem test_wf_refuses_slice_row_in_slice_6 : Site.wf ⟨13, 6⟩ = false := by decide
theorem test_wf_refuses_global_row_in_slice_1 : Site.wf ⟨29, 1⟩ = false := by decide
theorem test_wf_refuses_row_41 : Site.wf ⟨41, 0⟩ = false := by decide
theorem test_decode_rejects_row_41 : decode ⟨41, 0⟩ [0] = .error (.noSuchRow 41) := rfl
theorem test_decode_rejects_two_bytes : decode ⟨13, 0⟩ [0, 0] = .error (.wrongLength 2) := rfl
theorem test_decode_rejects_nine_name_bytes :
    decode ⟨40, 0⟩ (List.replicate 9 0x41) = .error (.wrongLength 9) := rfl

/-! ### Decoding, from the encodings of 30_encoding.md and the vectors of 95_test_vectors.md -/

/-- R131: third byte of the worked slice of P1. -/
theorem test_decode_xegr : decodesTo ⟨2, 5⟩ [0x35] (.xegr 5 2 53) = true := by decide
/-- R132. -/
theorem test_decode_xegl : decodesTo ⟨6, 5⟩ [0x4B] (.xegl 5 2 75) = true := by decide
/-- V-BP. -/
theorem test_decode_xbp : decodesTo ⟨8, 1⟩ [0x64] (.xbp 1 100) = true := by decide
/-- R137. -/
theorem test_decode_xld : decodesTo ⟨9, 0⟩ [0x19] (.xld 0 25) = true := by decide
/-- R138. -/
theorem test_decode_xrd : decodesTo ⟨10, 0⟩ [0x4A] (.xrd 0 74) = true := by decide
/-- V-PB11, byte 09. -/
theorem test_decode_xlc : decodesTo ⟨11, 3⟩ [0b00001001] (.xlc 3 1) = true := by decide
/-- V-PB11, byte F6. -/
theorem test_decode_xrc : decodesTo ⟨12, 3⟩ [0b11110110] (.xrc 3 1) = true := by decide
/-- V-TUNE, byte AD: bit 7 is not in the field. -/
theorem test_decode_xtune : decodesTo ⟨13, 2⟩ [0b10101101] (.xtune 2 5) = true := by decide
/-- V-TUNE, byte AD. -/
theorem test_decode_xrs : decodesTo ⟨14, 2⟩ [0b10101101] (.xrs 2 5) = true := by decide
/-- V-PB13, byte 3D. -/
theorem test_decode_xams : decodesTo ⟨15, 4⟩ [0b00111101] (.xams 4 1) = true := by decide
/-- V-PB13, byte E0: bits 7 to 5 are unread. -/
theorem test_decode_xkvs : decodesTo ⟨16, 4⟩ [0b11100000] (.xkvs 4 0) = true := by decide
/-- R145. -/
theorem test_decode_xlvl : decodesTo ⟨17, 0⟩ [0x5E] (.xlvl 0 94) = true := by decide
/-- R146. -/
theorem test_decode_xmode : decodesTo ⟨18, 1⟩ [0b00000101] (.xmode 1 1) = true := by decide
/-- V-PB15, byte FE: seven selector bits. -/
theorem test_decode_xcoarse : decodesTo ⟨19, 1⟩ [0b11111110] (.xcoarse 1 127 0) = true := by decide
/-- R148. -/
theorem test_decode_xfine : decodesTo ⟨20, 5⟩ [0x07] (.xfine 5 7) = true := by decide
/-- R171. -/
theorem test_decode_gpegr : decodesTo ⟨22, 0⟩ [0x43] (.gpegr 1 67) = true := by decide
/-- R172. -/
theorem test_decode_gpegl : decodesTo ⟨28, 0⟩ [0x32] (.gpegl 3 50) = true := by decide
/-- V-PB110, byte F5. -/
theorem test_decode_galg : decodesTo ⟨29, 0⟩ [0b11110101] (.galg 21) = true := by decide
/-- V-PB110, byte 9F. -/
theorem test_decode_gfb : decodesTo ⟨30, 0⟩ [0b10011111] (.gfb 4) = true := by decide
/-- V-PB111, byte F7: only bit 3 counts. -/
theorem test_decode_gosync : decodesTo ⟨31, 0⟩ [0b11110111] (.gosync 0) = true := by decide
/-- R176. -/
theorem test_decode_glspd : decodesTo ⟨32, 0⟩ [0x25] (.glspd 37) = true := by decide
/-- V-DIRECT. -/
theorem test_decode_gldly : decodesTo ⟨33, 0⟩ [0xFF] (.gldly 255) = true := by decide
/-- R178. -/
theorem test_decode_glpmd : decodesTo ⟨34, 0⟩ [0x05] (.glpmd 5) = true := by decide
/-- V-DIRECT. -/
theorem test_decode_glamd : decodesTo ⟨35, 0⟩ [0x63] (.glamd 99) = true := by decide
/-- R180. -/
theorem test_decode_glsync : decodesTo ⟨36, 0⟩ [0b00111001] (.glsync 1) = true := by decide
/-- V-PB116, byte 8F. -/
theorem test_decode_glwave : decodesTo ⟨37, 0⟩ [0b10001111] (.glwave 7) = true := by decide
/-- R183, byte 39. -/
theorem test_decode_gpms_b116 : decodesTo ⟨38, 0⟩ [0b00111001] (.gpms .b116Hi 3) = true := by decide
/-- V-PB116, byte FD at 117. -/
theorem test_decode_gpms_b117 : decodesTo ⟨39, 0⟩ [0b11111101] (.gpms .b117Lo 5) = true := by decide
/-- E7. -/
theorem test_decode_gname : decodesTo ⟨40, 0⟩ [0x42, 0x52, 0x41, 0x53, 0x53, 0x20, 0x20, 0x31, 0x20, 0x20] (.gname #v[0x42, 0x52, 0x41, 0x53, 0x53, 0x20, 0x20, 0x31, 0x20, 0x20]) = true := by decide

/-! ### One step of each instruction: the value it leaves (expected values from the rules and vectors cited) -/

/-- R131; R149: slice 5 is OP1. -/
theorem test_exec_xegr : gives (.xegr 5 2 53) (.egr 0 2) (.unsigned 53) = true := by decide
/-- no clamp at 99 (R132). -/
theorem test_exec_xegl : gives (.xegl 0 3 255) (.egl 5 3) (.unsigned 255) = true := by decide
/-- V-BP. -/
theorem test_exec_xbp_99 : gives (.xbp 1 99) (.bp 4) (.breakPoint false 99) = true := by decide
/-- V-BP, E4. -/
theorem test_exec_xbp_100 : gives (.xbp 1 100) (.bp 4) (.breakPoint true 0) = true := by decide
/-- R137. -/
theorem test_exec_xld : gives (.xld 0 255) (.ld 5) (.unsigned 255) = true := by decide
/-- R138. -/
theorem test_exec_xrd : gives (.xrd 0 74) (.rd 5) (.unsigned 74) = true := by decide
/-- R139. -/
theorem test_exec_xlc : gives (.xlc 3 1) (.lc 2) (.unsigned 1) = true := by decide
/-- R140. -/
theorem test_exec_xrc : gives (.xrc 3 2) (.rc 2) (.unsigned 2) = true := by decide
/-- C2: +8. -/
theorem test_exec_xtune_15 : gives (.xtune 2 15) (.tune 3) (.signed 8) = true := by decide
/-- V-TUNE. -/
theorem test_exec_xtune_0 : gives (.xtune 2 0) (.tune 3) (.signed (-7)) = true := by decide
/-- R142. -/
theorem test_exec_xrs : gives (.xrs 2 7) (.rs 3) (.unsigned 7) = true := by decide
/-- R143. -/
theorem test_exec_xams : gives (.xams 4 3) (.ams 1) (.unsigned 3) = true := by decide
/-- R144. -/
theorem test_exec_xkvs : gives (.xkvs 4 7) (.kvs 1) (.unsigned 7) = true := by decide
/-- P4: label A lands in OP6. -/
theorem test_exec_xlvl : gives (.xlvl 0 65) (.level 5) (.unsigned 65) = true := by decide
/-- R146. -/
theorem test_exec_xmode : gives (.xmode 1 1) (.mode 4) (.unsigned 1) = true := by decide
/-- E5. -/
theorem test_exec_xcoarse_half : gives (.xcoarse 1 0 0) (.coarse 4) (.rational (1 / 2)) = true := by decide +kernel
/-- V-PB15, byte FF. -/
theorem test_exec_xcoarse_fixed : gives (.xcoarse 1 127 1) (.coarse 4) (.rational 1000) = true := by decide +kernel
/-- R148. -/
theorem test_exec_xfine : gives (.xfine 5 7) (.fineRaw 0) (.unsigned 7) = true := by decide
/-- R171. -/
theorem test_exec_gpegr : gives (.gpegr 1 67) (.pegr 1) (.unsigned 67) = true := by decide
/-- R172. -/
theorem test_exec_gpegl : gives (.gpegl 3 50) (.pegl 3) (.unsigned 50) = true := by decide
/-- R173: no wrap. -/
theorem test_exec_galg_31 : gives (.galg 31) (.alg) (.unsigned 32) = true := by decide
/-- R174. -/
theorem test_exec_gfb : gives (.gfb 4) (.fb) (.unsigned 4) = true := by decide
/-- R175. -/
theorem test_exec_gosync : gives (.gosync 1) (.osync) (.unsigned 1) = true := by decide
/-- R176. -/
theorem test_exec_glspd : gives (.glspd 37) (.lfoSpeed) (.unsigned 37) = true := by decide
/-- R177. -/
theorem test_exec_gldly : gives (.gldly 255) (.lfoDelay) (.unsigned 255) = true := by decide
/-- R178. -/
theorem test_exec_glpmd : gives (.glpmd 5) (.lfoPmd) (.unsigned 5) = true := by decide
/-- R179. -/
theorem test_exec_glamd : gives (.glamd 99) (.lfoAmd) (.unsigned 99) = true := by decide
/-- R180. -/
theorem test_exec_glsync : gives (.glsync 1) (.lfoSync) (.unsigned 1) = true := by decide
/-- R182: last entry. -/
theorem test_exec_glwave_5 : gives (.glwave 5) (.lfoWave) (.wave (some 5)) = true := by decide
/-- R182: WAVE_NA. -/
theorem test_exec_glwave_6 : gives (.glwave 6) (.lfoWave) (.wave none) = true := by decide
/-- R183. -/
theorem test_exec_gpms : gives (.gpms .b116Hi 3) (.pms) (.unsigned 3) = true := by decide
/-- R183: the other strap's row writes nothing. -/
theorem test_exec_gpms_other_strap : gives (.gpms .b117Lo 3) (.pms) (.unsigned 0) = true := by decide
/-- V-NAME. -/
theorem test_exec_gname_drop_then_trim :
    gives (.gname #v[0x20, 0xC9, 0x41, 0x80, 0x20, 0x42, 0x09, 0xFF, 0x0A, 0x20])
      (.name) (.name 3 [0x41, 0x20, 0x42, 0, 0, 0, 0, 0, 0, 0]) = true := by decide
/-- V-NAME. -/
theorem test_exec_gname_nul_stops_trim :
    gives (.gname #v[0x20, 0x00, 0x41, 0x00, 0x20, 0x20, 0x20, 0x20, 0x20, 0x20])
      (.name) (.name 3 [0x00, 0x41, 0x00, 0, 0, 0, 0, 0, 0, 0]) = true := by decide

/-! ### DECODE on whole records: programs P1 to P3 of 95_test_vectors.md -/

/-- P1: registers of OP1, OP3 and OP6, and of the globals. -/
theorem test_decode_P1 :
    nextIs (step { State.reset with rb := Memory.writeBytes [] 0 recordP1, pending := [.decode] }) (fun t =>
      t.valid && readReg t.voice (.egr 0 1) = .unsigned 52 && readReg t.voice (.tune 0) = .signed 3 &&
      readReg t.voice (.bp 0) = .breakPoint false 44 && readReg t.voice (.coarse 2) = .rational 100 &&
      readReg t.voice (.coarse 5) = .rational (1 / 2) && readReg t.voice (.rd 5) = .unsigned 99 &&
      readReg t.voice .alg = .unsigned 22 && readReg t.voice .pms = .unsigned 3 &&
      readReg t.voice .name = .name 8 [0x42, 0x52, 0x41, 0x53, 0x53, 0x20, 0x20, 0x31, 0, 0]) = true := by
  decide +kernel

/-- P2, all bytes `FF`: every out-of-domain field at once, and no fault. -/
theorem test_decode_P2 :
    nextIs (step (full 0xFF [.decode])) (fun t =>
      t.valid && readReg t.voice (.bp 3) = .breakPoint true 0 && readReg t.voice (.tune 5) = .signed 8 &&
      readReg t.voice .alg = .unsigned 32 && readReg t.voice .lfoWave = .wave none &&
      readReg t.voice .pms = .unsigned 7 && readReg t.voice .name = .name 0 (List.replicate 10 0)) = true := by
  decide +kernel

/-- P3, all bytes `00`: a ten-character name of NULs. -/
theorem test_decode_P3 :
    nextIs (step (full 0x00 [.decode])) (fun t =>
      readReg t.voice (.tune 0) = .signed (-7) && readReg t.voice (.coarse 4) = .rational (1 / 2) &&
      readReg t.voice .alg = .unsigned 1 && readReg t.voice .name = .name 10 (List.replicate 10 0)) = true := by
  decide +kernel

/-- The strap `B117_LO` reads bits 2 to 0 of byte 117 (P5: `07` gives 7 there and 0 under `B116_HI`). -/
theorem test_decode_strap_b117 :
    nextIs (step { full 0x07 [.decode] with params := { Config.defaultParams with pmsSource := .b117Lo } })
      (fun t => readReg t.voice .pms = .unsigned 7) = true := by decide +kernel

/-- A table word, presented as `withFetchWord` presents it, is run by the very next step. -/
theorem test_word_runs_first :
    nextIs (step (State.reset.withFetchWord 8 0x55)) (fun t =>
      readReg t.voice (.egr 5 0) = .unsigned 0x55 && readReg t.voice (.tune 0) = .signed 3) = true := by
  decide +kernel
theorem test_table_word_decodes : decodeTableWord 8 0x55 = some (.xegr 0 0 0x55) := by decide

/-! ### Host commands (V-HOST) -/

theorem test_reset_status_is_0 :
    nextIs (step (fresh [.readStatus])) (fun t => t.replies = [.status 0]) = true := by decide
theorem test_status_is_1_when_valid :
    nextIs (step (voiced OpBank.blank [.readStatus])) (fun t => t.replies = [.status 1]) = true := by decide
theorem test_reset_read_faults : faultIs (step (fresh [.read .alg])) .unwritten = true := by decide
theorem test_reset_decode_faults : faultIs (step (fresh [.decode])) .unwritten = true := by decide
theorem test_load_does_not_decode :
    nextIs (step (fresh [.load (Vector.replicate 128 7)])) (fun t => t.valid = false && t.rb.complete) = true := by
  decide +kernel
theorem test_load_leaves_the_voice :
    nextIs (step (voiced (osc 0 62 7) [.load (Vector.replicate 128 7)]))
      (fun t => t.valid && t.voice.op[0] = osc 0 62 7) = true := by decide +kernel
theorem test_reset_unwrites_the_record :
    nextIs (step (full 7 [.reset])) (fun t => t.rb = [] && !t.valid) = true := by decide +kernel
theorem test_read_answers :
    nextIs (step (voiced (osc 0 62 7) [.read (.fineRaw 0)]))
      (fun t => t.replies = [.value (.fineRaw 0) (.unsigned 7)]) = true := by decide +kernel
theorem test_strap_reads :
    nextIs (step (fresh [.readStrap])) (fun t => t.replies = [.strap .b116Hi]) = true := by decide
theorem test_recWrite_keeps_order :
    nextIs (step { State.reset with rb := [(3, 1), (9, 2)], pending := [.recWrite 5 4] })
      (fun t => t.rb = [(3, 1), (5, 4), (9, 2)]) = true := by decide
theorem test_recWrite_128_faults : faultIs (step (fresh [.recWrite 128 0])) (.noSuchAddress 128) = true := by decide
theorem test_recRead_unwritten_faults : faultIs (step (fresh [.recRead 127])) .unwritten = true := by decide

/-! ### Loader (V-LOADER, P5) -/

theorem test_validate_accepts_P5 : validate bankP5 = true := by decide +kernel
theorem test_validate_rejects_4103 : validate bankP5.dropLast = false := by decide +kernel
theorem test_validate_rejects_bad_signature : validate (0xF1 :: bankP5.drop 1) = false := by decide +kernel
theorem test_slice_7 : (sliceBank bankP5 7).map (fun r => (r[0], r[127])) = some (0x07, 0x07) := by decide +kernel
theorem test_slice_31 : (sliceBank bankP5 31).map (fun r => (r[0], r[127])) = some (0x1F, 0x1F) := by
  decide +kernel
theorem test_slice_32_refused : sliceBank bankP5 32 = none := by decide
theorem test_bank_addresses : bankAddr 7 0 = 902 ∧ bankAddr 31 0 = 3974 ∧ bankAddr 31 127 = 4101 := by decide
theorem test_load_slice_of_unaccepted_bank_refused :
    refusedIs (step (fresh [.loadSlice [0xF0] 0])) .bankNotAccepted = true := by decide
/-- P5 steps 3 to 5: after a rejection the bank accepted before is still there to be sliced; slot 8 is record 7. -/
theorem test_rejection_keeps_the_accepted_bank :
    nextIs (step { fresh [.presentBank (.bytes [0xF0])] with banks := [bankP5] })
      (fun t => t.banks.length = 1 && t.replies = [.rejected .invalidBank]) = true := by decide +kernel
theorem test_load_slot_8_of_P5 :
    nextIs (step { fresh [.loadSlot bankP5 8] with banks := [bankP5] })
      (fun t => t.rb.record = some (List.replicate 128 0x07)) = true := by decide +kernel
theorem test_bad_bank_rejected :
    nextIs (step (fresh [.presentBank (.bytes [0xF0]), .decode]))
      (fun t => t.replies = [.rejected .invalidBank] && t.pending = [.decode]) = true := by decide
theorem test_unreadable_bank_ends_the_host :
    nextIs (step (fresh [.presentBank .unreadable, .decode]))
      (fun t => t.replies = [.rejected .sourceUnreadable] && t.pending = []) = true := by decide

/-! ### Transforms (V-FINE-R, V-FINE-F) and printing -/

theorem test_fine_ratio : fineOf (osc 0 62 7) = 3317 / 100 := by decide +kernel
theorem test_fine_fixed : fineOf (osc 1 200 1) = 1023293 / 10000 := by decide +kernel
theorem test_fineDec_fixed_rounds : fineDecOf false (osc 1 2 128) = (3, 19055) := by decide +kernel
theorem test_fineDec_fixed_largest : fineDecOf true (osc 1 2000 255) = (3, 354814072) := by decide +kernel
theorem test_fineDec_ratio_largest : fineDecOf true (osc 0 254 255) = (2, 45085) := by decide +kernel
theorem test_fineDec_tie :
    fineDecOf false (osc 0 1 99) = (2, 99) ∧ fineDecOf true (osc 0 1 99) = (2, 100) := by decide +kernel
theorem test_fine_command :
    nextIs (step (voiced (osc 0 62 7) [.fine 0])) (fun t => t.replies = [.fine 0 (3317 / 100)]) = true := by
  decide +kernel
theorem test_tie_advances_the_draws :
    nextIs (step (voiced (osc 0 1 1) [.fineDec 0])) (fun t => t.draws = 1) = true := by decide +kernel
theorem test_print_fixed : printDecimal 3 354814072 = "354814.072".toList := by decide
theorem test_print_ratio : printDecimal 2 50 = "0.50".toList := by decide
theorem test_print_coarse : printCoarse (osc 0 1 0) = "0.50".toList := by decide
theorem test_notes : Config.note 0 = "A-1" ∧ Config.note 3 = "C0" ∧ Config.note 39 = "C3" ∧
    Config.note 98 = "B7" ∧ Config.note 99 = "C8" := by decide
/-- R44: `NOTE[1] = A#-1`, and the octave from `NOTE[15] = C1` on. -/
theorem test_notes_of_an_octave :
    Config.note 1 = "A#-1" ∧ ((List.range 12).map fun k => Config.note (15 + k)).foldl (· ++ ·) "" =
      "C1C#1D1D#1E1F1F#1G1G#1A1A#1B1" := by decide
theorem test_file_name : fileName Config.defaultWs [0x20, 0x41, 0x2F, 0x42, 0x3A, 0x20] = [0x41, 0x42] := by decide

/-! ### Witnesses: states that meet the hypotheses of the statements -/

/-- `EveryByteDecodesToItsRowsFields`, `EncodeOfDecodeKeepsTheReadBits`, both kinds of site and the name. -/
theorem witness_sites :
    Site.wf ⟨20, 5⟩ = true ∧ rows[20]? = some ⟨"XFINE", .slice, 16, [(7, 0)], 1, none⟩ ∧
    Site.wf ⟨39, 0⟩ = true ∧ rows[39]? = some ⟨"GPMS", .record, 117, [(2, 0)], 1, some .b117Lo⟩ ∧
    (List.replicate 10 (0xFF : Byte)).length = 10 := by decide

/-- `EncodeOfDecodeKeepsTheReadBits`. -/
theorem witness_decode_ok : decode ⟨13, 0⟩ [0xFF] = .ok (.xtune 0 15) := rfl

/-- `DecodeRejectsByName`: a row and a slice that do not exist, and wrong lengths at the first and last sites. -/
theorem witness_bad_sites :
    Site.wf ⟨41, 0⟩ = false ∧ Site.wf ⟨20, 6⟩ = false ∧ Site.wf ⟨21, 1⟩ = false ∧
    Site.wf ⟨0, 0⟩ = true ∧ ([] : List Byte).length ≠ siteLength ⟨0, 0⟩ ∧
    Site.wf ⟨40, 0⟩ = true ∧ [(0 : Byte)].length ≠ siteLength ⟨40, 0⟩ := by decide

/-- `WiredExtractorsWriteEachRegisterOnce`, and every statement about a complete `RB`. -/
theorem witness_complete : (full 0x5A [.decode]).rb.complete = true := by decide +kernel

/-- The `Extracts` statements: at every record address a byte is readable, slice 0 goes with OP6 and slice 5 with
OP1. -/
theorem witness_extracts :
    (∀ a : Fin 128, (full 0x5A []).rb.read a = some 0x5A) ∧
    ((5 : Fin 6) : Nat) = 5 - ((0 : Fin 6) : Nat) ∧ ((0 : Fin 6) : Nat) = 5 - ((5 : Fin 6) : Nat) := by
  decide +kernel

/-- The clauses on the shown strings of `BreakPointIsIndexOrSentinel`, `CurveExtractorsTakeTheirTwoBits` and
`WaveIsCodeOrSentinel`: the instruction completes, at the boundary bytes. -/
theorem witness_shown :
    (∃ t, exec (.xbp 0 99) State.reset = .next t) ∧ (∃ t, exec (.xbp 0 100) State.reset = .next t) ∧
    (∃ t, exec (.xlc 0 3) State.reset = .next t) ∧ (∃ t, exec (.xrc 0 3) State.reset = .next t) ∧
    (∃ t, exec (.glwave 5) State.reset = .next t) ∧ (5 : BitVec 3).toNat ≤ 5 ∧
    (∃ t, exec (.glwave 6) State.reset = .next t) ∧ 5 < (6 : BitVec 3).toNat :=
  ⟨⟨_, rfl⟩, ⟨_, rfl⟩, ⟨_, rfl⟩, ⟨_, rfl⟩, ⟨_, rfl⟩, by decide, ⟨_, rfl⟩, by decide⟩

/-- `PitchModSensitivityFollowsTheStrap`: each strap with its byte readable, and a row of the other strap. -/
theorem witness_straps :
    (full 0x5A []).params.pmsSource = .b116Hi ∧ (full 0x5A []).rb.read 116 = some 0x5A ∧
    ({ full 0x5A [] with params := ⟨.b117Lo, Config.defaultWs⟩ } : State).params.pmsSource = .b117Lo ∧
    ({ full 0x5A [] with params := ⟨.b117Lo, Config.defaultWs⟩ } : State).rb.read 117 = some 0x5A ∧
    (full 0x5A []).params.pmsSource ≠ .b117Lo := by decide +kernel

/-- `NameIsKeptThenTrimmed`. -/
theorem witness_name : ∀ k : Fin 10, (full 0x41 []).rb.read (118 + k) = some (Vector.replicate 10 (0x41 : Byte))[k] := by
  decide +kernel

/-- `DecodeStepRunsTheDecodedInstructions`, `DecodeGivesTheReferenceVoice` (both clauses), `DecodedVoiceIsInRange`,
`SecondDecodeChangesNothing`. -/
theorem witness_decode_pending :
    (full 0x5A [.decode, .decode]).pending = [.decode, .decode] ∧
    (full 0x5A [.decode]).rb.record = some (List.replicate 128 0x5A) ∧
    (fresh [.decode]).rb.record = none ∧
    nextIs (step (full 0x5A [.decode])) (fun t => t.valid) = true := by decide +kernel

/-- `DecodeForgetsTheEarlierVoice`: equal records after different Voices. -/
theorem witness_two_histories :
    (full 0x5A [.decode]).rb = ({ full 0x5A [.decode] with voice := { Voice.blank with alg := 9 } } : State).rb ∧
    (full 0x5A [.decode]).params =
      ({ full 0x5A [.decode] with voice := { Voice.blank with alg := 9 } } : State).params ∧
    (full 0x5A [.decode]).rb.complete = true := by decide +kernel

/-- `ExtractorOrderIsNotObservable`: a program and a rearrangement of it. -/
theorem witness_program :
    ∃ is, fetchProgram .b116Hi (full 0x5A []).rb = .next is ∧ is.reverse.Perm is := by
  have hp : programIs (fetchProgram .b116Hi (full 0x5A []).rb) = true := by decide +kernel
  cases h : fetchProgram .b116Hi (full 0x5A []).rb with
  | next is => exact ⟨is, rfl, List.reverse_perm is⟩
  | fault f => rw [h] at hp; cases hp
  | refused r => rw [h] at hp; cases hp

/-- A record like that of `FF` but in an unread bit of byte 12, in `CS[6:2]` of the FIXED byte 15 and in a dropped
name byte. -/
def nearFF : List Byte := (((List.replicate 128 0xFF).set 12 0x7F).set 15 0x07).set 118 0x80

/-- `UnreadBitsHaveNoEffect`: two states whose records differ, in all three ways the statement allows and no other. -/
theorem witness_unread :
    (full 0xFF [.decode]).rb.record = some (List.replicate 128 0xFF) ∧
    ({ full 0xFF [.decode] with rb := Memory.writeBytes [] 0 nearFF } : State).rb.record = some nearFF ∧
    nearFF ≠ List.replicate 128 0xFF ∧
    ∀ a : Fin 128, sameRead (full 0xFF [.decode]).params.pmsSource a (byteAt (List.replicate 128 0xFF) a)
      (byteAt nearFF a) := by
  unfold sameRead
  decide +kernel

/-- `OperatorDependsOnlyOnItsSlice`: two records that agree on slice 5 and differ elsewhere. -/
theorem witness_slice :
    (full 0x00 [.decode]).rb.record = some (List.replicate 128 0x00) ∧
    (∀ f : Fin 17, byteAt (List.replicate 128 0x00) (17 * 5 + f) =
      byteAt (0x01 :: List.replicate 127 0x00) (17 * 5 + f)) := by decide +kernel

/-- `RecordBufferReadAfterWrite`. -/
theorem witness_memory : Memory.wf [(0, 1), (127, 2)] = true := by decide

/-- `LoadReplacesTheRecordOnly`, `SingleByteHostAccess` (each clause), `ReadAnswersTheRegisterOrFaults`,
`StrapIsReadableAndNeverMoves`, `ResetLeavesNoValue`, `IdleWithoutCommand`. -/
theorem witness_commands :
    (fresh [.load (Vector.replicate 128 0)]).pending = [.load (Vector.replicate 128 0)] ∧
    (fresh [.recWrite 127 1]).pending = [.recWrite 127 1] ∧ (fresh [.recWrite 128 1]).pending = [.recWrite 128 1] ∧
    (full 1 [.recRead 127]).rb.read 127 = some 1 ∧ (fresh [.recRead 127]).rb.read 127 = none ∧
    (voiced OpBank.blank [.read .alg]).valid = true ∧ (fresh [.read .alg]).valid = false ∧
    (fresh [.readStatus]).pending = [.readStatus] ∧ (fresh [.readStrap]).pending = [.readStrap] ∧
    nextIs (step (fresh [.readStrap])) (fun _ => true) = true ∧
    (full 1 [.reset]).pending = [.reset] ∧ State.reset.pending = [] := by decide +kernel

/-- A state that holds the accepted bank of P5, with commands pending. -/
def banked (cs : List Command) : State := { fresh cs with banks := [bankP5] }

/-- `SlicesPartitionTheBank`, `BankIsValidatedBeforeThePduRuns`, `LoadingARecordOfTheBank` (each clause). -/
theorem witness_bank :
    validate bankP5 = true ∧ validate [0xF0] = false ∧
    (fresh [.presentBank .unreadable]).pending = [.presentBank .unreadable] ∧
    (banked [.loadSlice bankP5 31]).pending = [.loadSlice bankP5 31] ∧ bankP5 ∈ (banked []).banks ∧
    (banked [.loadSlot bankP5 32]).pending = [.loadSlot bankP5 (31 + 1)] ∧
    (banked [.loadSlice bankP5 32]).pending = [.loadSlice bankP5 32] ∧
    (banked [.loadSlot bankP5 0]).pending = [.loadSlot bankP5 0] ∧
    (banked [.loadSlot bankP5 33]).pending = [.loadSlot bankP5 33] ∧ bankP5 ∉ (fresh []).banks :=
  ⟨test_validate_accepts_P5, by decide, rfl, rfl, .head _, rfl, rfl, rfl, rfl, List.not_mem_nil⟩

/-- `FineIsTheExactFormula`, `FineDecAnswersTheNearest`: a valid RATIO and a valid FIXED operator, and none valid. -/
theorem witness_fine :
    (voiced (osc 0 1 1) [.fine 0]).valid = true ∧
    readReg (voiced (osc 0 1 1) [.fine 0]).voice (.coarse 0) = .rational (1 / 2) ∧
    readReg (voiced (osc 1 2000 255) [.fine 0]).voice (.mode 0) = .unsigned 1 ∧
    readReg (voiced (osc 1 2000 255) [.fine 0]).voice (.fineRaw 0) = .unsigned 255 ∧
    (voiced (osc 1 2000 255) [.fineDec 0]).valid = true ∧
    (fresh [.fine 0]).valid = false ∧ (fresh [.fineDec 0]).valid = false := by decide +kernel

/-- `TiesAreExactlyTheOddHalves`, `FineDecRanges`, `TieIsTheOnlyFreeChoice`, `FineStartsAtCoarseAndIncreases`: banks in
range in both modes, at a tie and away from one. -/
theorem witness_banks :
    (osc 0 1 1).wf = true ∧ isTie (fineScaled (osc 0 1 1)) = true ∧
    (osc 0 254 255).wf = true ∧ isTie (fineScaled (osc 0 254 255)) = false ∧
    (osc 1 2000 255).wf = true ∧ (osc 1 2000 255).mode ≠ 0 ∧ (osc 1 2 0).fineRaw = 0 ∧ (osc 1 2 0).wf = true ∧
    (osc 0 1 0).fineRaw.toNat < (osc 0 1 255).fineRaw.toNat ∧ (osc 1 2 0).fineRaw.toNat < (osc 1 2 1).fineRaw.toNat := by
  decide +kernel

/-- `EveryStepKeepsTheInvariant`, `ValidMeansTheOutputsAreADecode`: a state other than reset that meets the invariant
and answers a next state. -/
theorem witness_invariant : (full 0x5A [.decode]).Inv ∧ (full 0x5A [.decode]).HoldsADecode ∧
    nextIs (step (full 0x5A [.decode])) (fun t => t.valid) = true := by
  have hv : (full 0x5A [.decode]).valid = false := rfl
  have hb : (full 0x5A [.decode]).banks = [] := rfl
  refine ⟨⟨by decide +kernel, by decide +kernel, by decide, ?_, ?_⟩, ?_, by decide +kernel⟩
  · intro buf h; rw [hb] at h; cases h
  · intro h; rw [hv] at h; cases h
  · intro h; rw [hv] at h; cases h

/-- `OnlyTheRightCommandsWrite`: commands that write neither, and each side. -/
theorem witness_rights :
    Command.writesOutputs .readStatus = false ∧ Command.writesRecord .decode = false ∧
    nextIs (step (full 0x5A [.decode])) (fun _ => true) = true ∧
    nextIs (step (fresh [.readStatus])) (fun _ => true) = true := by decide +kernel

/-- `StepsStopOnlyWhereTheHostErred`: a step that faults each way, and one that is refused. -/
theorem witness_stops :
    faultIs (step (fresh [.decode])) .unwritten = true ∧ faultIs (step (fresh [.fine 0])) .unwritten = true ∧
    faultIs (step (fresh [.recRead 128])) (.noSuchAddress 128) = true ∧
    refusedIs (step (fresh [.loadSlot [] 1])) .bankNotAccepted = true ∧
    refusedIs (step { fresh [.loadSlice [] 32] with banks := [[]] }) (.sliceOutOfRange 32) = true ∧
    refusedIs (step (fresh [.loadSlot [] 33])) (.sliceOutOfRange 33) = true := by decide

/-- `HostProgramRunsExactlyWhenDutiesAreKept`: a program that keeps its duties and one that does not. -/
theorem witness_duties :
    (dutyOf (fresh [])).obeyed [.reset, .load (Vector.replicate 128 7), .decode, .read .alg, .fineDec 0] = true ∧
    (dutyOf (fresh [])).obeyed [.load (Vector.replicate 128 7), .read .alg] = false := by decide +kernel

/-! ### The report -/

/-- Parameters of a report, for the tests. -/
def somePage : RenderParams where
  labelW := 4
  colW := 5
  ruleW := 10
  totalW := 12
  bannerText := "SHEET".toList
  heading := fun _ => none
  cornerLabel := []
  rowLabel := fun _ => "ROW NAME".toList
  itemLabel := fun _ => "N ".toList
  curveText := fun _ => []
  waveText := fun _ => []
  boolText := fun b => if b then ['Y'] else ['N']
  waveNaText := ['?']
  zeroTune := ['0']
  padLeft := false
  centreRight := false
  rulesAbove := fun sec => if sec = .banner then [true] else []
  rulesBelow := fun _ => []
  itemGap := fun _ => [' ']
  lineEnd := ['\n']

/-- What is reported of a Voice, for the tests. -/
def pageOf (v : Voice) : ReportInput := { voice := v, label := ['B'], index := 31, tie := fun _ => false }

theorem test_report_title_line :
    titleLine somePage = "    OP1  OP2  OP3  OP4  OP5  OP6".toList := by decide
/-- Column OP1 shows `OP[0]`; the label is cut, trailing blanks go (R224, R226, R229). -/
theorem test_report_table_line :
    tableLine somePage (pageOf { Voice.blank with op := Voice.blank.op.set 0 { OpBank.blank with tune := 3 } }) .tune =
      "ROW +3   0    0    0    0    0".toList := by decide
theorem test_report_identity :
    sectionLines somePage (pageOf { Voice.blank with nameLen := 2, name := Voice.blank.name.set 0 0x41 }) .identity =
      ["N B N 32 N ".toList ++ ['A', '\x00']] := by decide
theorem test_report_pitch_label :
    itemTitle somePage (.pegr 0) = "R1".toList ∧ itemTitle somePage (.pegl 3) = "L4".toList := by decide
theorem test_report_banner : sectionLines somePage (pageOf Voice.blank) .banner =
    ["==========".toList, "   SHEET    ".toList] := by decide

/-- R226, R210, R207 with V-FINE-R: mode, coarse and fine value of a RATIO operator. -/
theorem test_report_oscillator :
    [TableRow.mode, .coarse, .fine].map (cellText somePage false (osc 0 62 7)) =
      ["RATIO".toList, "31.00".toList, "33.17".toList] := by decide +kernel

/-- `ReportShowsEveryRegisterOnce`, `ShownTextIsAFunctionOfItsRegister`: Voices that differ in a register of another
section, and that read alike in a wave register whose codes differ. -/
theorem witness_report :
    (∀ r ∈ ReportSection.lfoPitch.regs,
      readReg { Voice.blank with alg := 9, lfo := { Voice.blank.lfo with waveCode := 6 } } r =
      readReg { Voice.blank with alg := 8, lfo := { Voice.blank.lfo with waveCode := 7 } } r) ∧
    ReportItem.wave ∈ ReportSection.lfoPitch.items ∧ TableRow.fine ∈ ReportSection.oscillator.rows ∧
    readReg Voice.blank (TableRow.fine.reg 5) = readReg { Voice.blank with alg := 9 } (TableRow.fine.reg 5) := by
  decide +kernel

/-- `ReportIsOfTheValidVoice`: a valid and an invalid state, and the bounds of the slot number. -/
theorem witness_reported :
    (voiced OpBank.blank []).valid = true ∧ (fresh []).valid = false ∧ (pageOf Voice.blank).slot = 32 ∧
    ReportSection.envelope.rows ≠ [] := by decide

end Sys2Proof.Tests
end

section
/-!
SUPPORT. What an output register holds, as a function of the register's name: a Voice and an operator bank are
determined by it.
-/

namespace Sys2Proof.Machine

/-- The operator bank a register belongs to. -/
def OutReg.bank : OutReg → Option (Fin 6)
  | .egr d _ | .egl d _ | .bp d | .ld d | .rd d | .lc d | .rc d | .tune d | .rs d | .ams d | .kvs d | .level d
  | .mode d | .coarse d | .fineRaw d => some d
  | _ => none

/-- What an operator bank holds in one of its 21 registers (`readReg_of_bank`); other registers are not in it. -/
def OpBank.reg (o : OpBank) : OutReg → RegValue
  | .egr _ j => .unsigned (o.egr[j]).toNat
  | .egl _ j => .unsigned (o.egl[j]).toNat
  | .bp _ => .breakPoint o.bpNa o.bpIdx.toNat
  | .ld _ => .unsigned o.ld.toNat
  | .rd _ => .unsigned o.rd.toNat
  | .lc _ => .unsigned o.lc.toNat
  | .rc _ => .unsigned o.rc.toNat
  | .tune _ => .signed o.tune.toInt
  | .rs _ => .unsigned o.rs.toNat
  | .ams _ => .unsigned o.ams.toNat
  | .kvs _ => .unsigned o.kvs.toNat
  | .level _ => .unsigned o.level.toNat
  | .mode _ => .unsigned o.mode.toNat
  | .coarse _ => .rational ((o.coarseX2.toNat : Rat) / 2)
  | .fineRaw _ => .unsigned o.fineRaw.toNat
  | _ => .wave none

/-- What a register holds: what it reads as, but for `LFO.WAVE`, whose raw code tells more than the reading (R39). -/
def rawReg (v : Voice) (r : OutReg) : RegValue :=
  if r = .lfoWave then .unsigned v.lfo.waveCode.toNat else readReg v r

theorem rawReg_of_ne (v : Voice) {r : OutReg} (h : r ≠ .lfoWave) : rawReg v r = readReg v r := if_neg h

@[simp] theorem rawReg_lfoWave (v : Voice) : rawReg v .lfoWave = .unsigned v.lfo.waveCode.toNat := rfl

theorem readReg_of_bank (v : Voice) {r : OutReg} {d : Fin 6} (h : r.bank = some d) :
    readReg v r = v.op[d].reg r := by
  cases r <;> cases h <;> rfl

theorem OutReg.ne_lfoWave_of_bank {r : OutReg} {d : Fin 6} (h : r.bank = some d) : r ≠ .lfoWave := by
  rintro rfl
  cases h

theorem rawReg_of_bank (v : Voice) {r : OutReg} {d : Fin 6} (h : r.bank = some d) :
    rawReg v r = v.op[d].reg r :=
  (rawReg_of_ne v (OutReg.ne_lfoWave_of_bank h)).trans (readReg_of_bank v h)

theorem rawReg_withOp (v : Voice) (w : Vector OpBank 6) {r : OutReg} (h : r.bank = none) :
    rawReg { v with op := w } r = rawReg v r := by
  cases r <;> first | rfl | cases h

/-- A bank is determined by what its registers hold. -/
theorem OpBank.ext_reg {o p : OpBank} (d : Fin 6) (h : ∀ r : OutReg, r.bank = some d → o.reg r = p.reg r) :
    o = p := by
  have hegr (j : Fin 4) : o.egr[j] = p.egr[j] := by simpa [reg, BitVec.toNat_inj] using h (.egr d j) rfl
  have hegl (j : Fin 4) : o.egl[j] = p.egl[j] := by simpa [reg, BitVec.toNat_inj] using h (.egl d j) rfl
  have hbp := h (.bp d) rfl
  have hld := h (.ld d) rfl
  have hrd := h (.rd d) rfl
  have hlc := h (.lc d) rfl
  have hrc := h (.rc d) rfl
  have htune := h (.tune d) rfl
  have hrs := h (.rs d) rfl
  have hams := h (.ams d) rfl
  have hkvs := h (.kvs d) rfl
  have hlevel := h (.level d) rfl
  have hmode := h (.mode d) rfl
  have hcoarse := h (.coarse d) rfl
  have hfine := h (.fineRaw d) rfl
  have hegr' : o.egr = p.egr := Vector.ext fun j hj => hegr ⟨j, hj⟩
  have hegl' : o.egl = p.egl := Vector.ext fun j hj => hegl ⟨j, hj⟩
  cases o
  cases p
  simp_all [reg, BitVec.toNat_inj, BitVec.toInt_inj]

/-- A Voice is determined by what its registers hold. -/
theorem Voice.ext_rawReg {v w : Voice} (h : ∀ r, rawReg v r = rawReg w r) : v = w := by
  have hbank (d : Fin 6) : v.op[d] = w.op[d] :=
    OpBank.ext_reg d fun r hr => (rawReg_of_bank v hr).symm.trans ((h r).trans (rawReg_of_bank w hr))
  have hop : v.op = w.op := Vector.ext fun k hk => hbank ⟨k, hk⟩
  have hpegr : v.pegr = w.pegr := Vector.ext fun j hj => by
    simpa [rawReg, readReg, BitVec.toNat_inj] using h (.pegr ⟨j, hj⟩)
  have hpegl : v.pegl = w.pegl := Vector.ext fun j hj => by
    simpa [rawReg, readReg, BitVec.toNat_inj] using h (.pegl ⟨j, hj⟩)
  have halg := h .alg
  have hfb := h .fb
  have hosync := h .osync
  have hspeed := h .lfoSpeed
  have hdelay := h .lfoDelay
  have hpmd := h .lfoPmd
  have hamd := h .lfoAmd
  have hsync := h .lfoSync
  have hwave := h .lfoWave
  have hpms := h .pms
  have hname := h .name
  rcases v with ⟨_, _, _, _, _, _, ⟨_, _, _, _, _, _⟩, _, _, _⟩
  rcases w with ⟨_, _, _, _, _, _, ⟨_, _, _, _, _, _⟩, _, _, _⟩
  simp_all [rawReg, readReg, BitVec.toNat_inj, Vector.toList_inj]

end Sys2Proof.Machine
end

section
/-!
SUPPORT. What one instruction does, said once for all 28: it completes, gives its register a value that does not
depend on the earlier Voice, and leaves every other register.
-/

namespace Sys2Proof.Machine

/-- The value an instruction gives its register where it belongs to the strap (`exec_writes_dest`). -/
def writtenValue (p : Params) : Instr → RegValue
  | .xegr _ _ b | .xegl _ _ b | .xld _ b | .xrd _ b | .xlvl _ b | .xfine _ b => .unsigned b.toNat
  | .gpegr _ b | .gpegl _ b | .glspd b | .gldly b | .glpmd b | .glamd b => .unsigned b.toNat
  | .xbp _ b => .breakPoint (bpNaOf b) (bpIdxOf b).toNat
  | .xlc _ c | .xrc _ c | .xams _ c => .unsigned c.toNat
  | .xtune _ t => .signed (tuneOf t).toInt
  | .xrs _ c | .xkvs _ c | .gfb c | .glwave c | .gpms _ c => .unsigned c.toNat
  | .xmode _ c | .gosync c | .glsync c => .unsigned c.toNat
  | .xcoarse _ c m => .rational (((coarseX2Of c m).toNat : Rat) / 2)
  | .galg a => .unsigned (algOf a).toNat
  | .gname n =>
    .name (BitVec.ofNat 4 (nameOf p.ws n.toList).length).toNat (nameCells (nameOf p.ws n.toList)).toList

/-- What a register holds after a change of one bank, when the change leaves every other register of the bank. -/
theorem rawReg_modifyOp_of_ne (s : State) (d : Fin 6) (f : OpBank → OpBank) (q : OutReg)
    (hf : ∀ r : OutReg, r.bank = some d → r ≠ q → ∀ o, (f o).reg r = o.reg r) {r : OutReg} (hr : r ≠ q) :
    rawReg (s.modifyOp d f).voice r = rawReg s.voice r := by
  cases hb : r.bank with
  | none => exact rawReg_withOp s.voice _ hb
  | some e =>
    rw [rawReg_of_bank _ hb, rawReg_of_bank _ hb]
    by_cases he : e = d
    · subst he
      rw [State.modifyOp_op_same, hf r hb hr]
    · rw [State.modifyOp_op_other s d e f he]

/-- An instruction completes and changes nothing but the Voice. -/
theorem exec_completes (i : Instr) (s : State) : ∃ v, exec i s = .next { s with voice := v } := by
  cases i with
  | gpms src p =>
    by_cases h : s.params.pmsSource = src
    · exact ⟨_, congrArg _ (if_pos h)⟩
    · exact ⟨s.voice, congrArg _ (if_neg h)⟩
  | _ => exact ⟨_, rfl⟩

/-- The row of the other strap writes nothing (R183). -/
theorem exec_of_not_wf {i : Instr} {s : State} (h : i.wf s.params.pmsSource = false) : exec i s = .next s := by
  cases i with
  | gpms src p =>
    have hne : s.params.pmsSource ≠ src := fun he => by simp [Instr.wf, he] at h
    exact congrArg _ (if_neg hne)
  | _ => cases h

/-- An instruction of the strap gives its register its value, whatever the state. -/
theorem exec_writes_dest {i : Instr} {s t : State} (h : exec i s = .next t)
    (hwf : i.wf s.params.pmsSource = true) : rawReg t.voice (dest i) = writtenValue s.params i := by
  cases i with
  | gpms src p =>
    have he : s.params.pmsSource = src := by simpa [Instr.wf, eq_comm] using hwf
    rw [exec, execGpms, if_pos he] at h
    cases h
    rfl
  | gname n => cases h; rfl
  | _ =>
    cases h
    simp [rawReg, readReg, dest, writtenValue, OpBank.coarse]

/-- A write to one cell of a quartet leaves what the others read as. -/
theorem unsigned_set_of_ne (w : Vector Byte 4) (b : Byte) {j k : Fin 4} (h : k ≠ j) :
    RegValue.unsigned ((w.set j b)[k]).toNat = .unsigned (w[k]).toNat :=
  congrArg (fun x : Byte => RegValue.unsigned x.toNat)
    (Vector.getElem_set_ne j.isLt k.isLt fun he => h (Fin.ext he.symm))

/-- An instruction leaves every register but its own. Of the registers of its bank, or of the Voice, either another
field holds it, which the instruction copies, or it is the instruction's own; in the four quartets the stage decides. -/
theorem exec_frame {i : Instr} {s t : State} (h : exec i s = .next t) {r : OutReg} (hr : r ≠ dest i) :
    rawReg t.voice r = rawReg s.voice r := by
  cases i with
  | xegr i j b =>
    cases h
    refine rawReg_modifyOp_of_ne s _ _ _ (fun r hb hr o => ?_) hr
    cases r with
    | egr e k =>
      cases hb
      exact unsigned_set_of_ne o.egr b fun hk => hr (congrArg _ hk)
    | _ => rfl
  | xegl i j b =>
    cases h
    refine rawReg_modifyOp_of_ne s _ _ _ (fun r hb hr o => ?_) hr
    cases r with
    | egl e k =>
      cases hb
      exact unsigned_set_of_ne o.egl b fun hk => hr (congrArg _ hk)
    | _ => rfl
  | xbp | xld | xrd | xlc | xrc | xtune | xrs | xams | xkvs | xlvl | xmode | xcoarse | xfine =>
    cases h
    refine rawReg_modifyOp_of_ne s _ _ _ (fun r hb hr o => ?_) hr
    cases r <;> first | rfl | (cases hb; exact absurd rfl hr)
  | gpegr j b =>
    cases h
    cases r with
    | pegr k =>
      exact unsigned_set_of_ne s.voice.pegr b fun hk => hr (congrArg _ hk)
    | _ => rfl
  | gpegl j b =>
    cases h
    cases r with
    | pegl k =>
      exact unsigned_set_of_ne s.voice.pegl b fun hk => hr (congrArg _ hk)
    | _ => rfl
  | galg | gfb | gosync | glspd | gldly | glpmd | glamd | glsync | glwave | gname =>
    cases h
    cases r <;> first | rfl | exact absurd rfl hr
  | gpms src p =>
    rw [exec, execGpms] at h
    split at h <;> cases h
    · cases r <;> first | rfl | exact absurd rfl hr
    · rfl

end Sys2Proof.Machine
end

section
/-!
SUPPORT. What a program does whose instructions write different registers: the order of its writes does not matter.
-/

namespace Sys2Proof.Machine

/-- The Voice `w` is `v` with the writes of a program: a register with an instruction of the strap holds that
instruction's value, every other one what it held. -/
def Writes (p : Params) (is : List Instr) (v w : Voice) : Prop :=
  (∀ i ∈ is, i.wf p.pmsSource = true → rawReg w (dest i) = writtenValue p i) ∧
  ∀ r, (∀ i ∈ is, dest i = r → i.wf p.pmsSource = false) → rawReg w r = rawReg v r

theorem Writes.unique {p : Params} {is : List Instr} {v w x : Voice} (hw : Writes p is v w) (hx : Writes p is v x) :
    w = x := by
  refine Voice.ext_rawReg fun r => ?_
  by_cases h : ∃ i ∈ is, dest i = r ∧ i.wf p.pmsSource = true
  · obtain ⟨i, hi, rfl, hwf⟩ := h
    rw [hw.1 i hi hwf, hx.1 i hi hwf]
  · have hr : ∀ i ∈ is, dest i = r → i.wf p.pmsSource = false := fun i hi he =>
      Bool.eq_false_iff.2 fun hwf => h ⟨i, hi, he, hwf⟩
    rw [hw.2 r hr, hx.2 r hr]

/-- The order of a program does not matter for what it writes. -/
theorem Writes.perm {p : Params} {is js : List Instr} {v w : Voice} (hp : js.Perm is) (h : Writes p js v w) :
    Writes p is v w :=
  ⟨fun i hi => h.1 i (hp.mem_iff.2 hi), fun r hr => h.2 r fun i hi => hr i (hp.mem_iff.1 hi)⟩

/-- One instruction ahead of a program that does not write its register. -/
theorem Writes.cons {s : State} {i : Instr} {is : List Instr} {u w : Voice} (hdest : dest i ∉ is.map dest)
    (hu : exec i s = .next { s with voice := u }) (h : Writes s.params is u w) :
    Writes s.params (i :: is) s.voice w := by
  obtain ⟨hw, hf⟩ := h
  refine ⟨fun j hj hwf => ?_, fun r hr => ?_⟩
  · rcases List.mem_cons.1 hj with rfl | hj
    · rw [hf (dest j) fun k hk he => absurd (he ▸ List.mem_map_of_mem hk) hdest, ← exec_writes_dest hu hwf]
    · exact hw j hj hwf
  · rw [hf r fun k hk => hr k (List.mem_cons_of_mem i hk)]
    by_cases he : r = dest i
    · have hsame : exec i s = .next s := exec_of_not_wf (hr i List.mem_cons_self he.symm)
      have hus : u = s.voice := congrArg State.voice (Host.Outcome.next.inj (hu.symm.trans hsame))
      rw [hus]
    · exact exec_frame hu he

/-- A program none of whose registers is written twice completes, writes them, and changes nothing else. -/
theorem execAll_completes {is : List Instr} (hnd : (is.map dest).Nodup) (s : State) :
    ∃ w, execAll is s = .next { s with voice := w } ∧ Writes s.params is s.voice w := by
  induction is generalizing s with
  | nil => exact ⟨s.voice, rfl, by simp, fun _ _ => rfl⟩
  | cons i is ih =>
    obtain ⟨hi, hnd⟩ := List.nodup_cons.1 hnd
    obtain ⟨u, hu⟩ := exec_completes i s
    obtain ⟨w, hw, hwrites⟩ := ih hnd { s with voice := u }
    exact ⟨w, (execAll_cons_eq_next ..).2 ⟨_, hu, hw⟩, hwrites.cons hi hu⟩

/-- Rearranging a program none of whose registers is written twice does not change its outcome. -/
theorem execAll_perm {is js : List Instr} (hp : js.Perm is) (hnd : (is.map dest).Nodup) (s : State) :
    execAll js s = execAll is s := by
  obtain ⟨v, hv, hvw⟩ := execAll_completes ((hp.map dest).nodup_iff.2 hnd) s
  obtain ⟨w, hw, hww⟩ := execAll_completes hnd s
  rw [hv, hw, (hvw.perm hp).unique hww]

end Sys2Proof.Machine
end

section
/-!
SUPPORT. The program that a record is, register by register: the site wired for a register and the instruction that the
record's bytes are there.
-/

namespace Sys2Proof.Machine

/-- The site wired for a register (R88). -/
def siteOf (strap : PmsSource) : OutReg → Site
  | .egr d j => ⟨j, displayIndex d⟩
  | .egl d j => ⟨4 + j, displayIndex d⟩
  | .bp d => ⟨8, displayIndex d⟩
  | .ld d => ⟨9, displayIndex d⟩
  | .rd d => ⟨10, displayIndex d⟩
  | .lc d => ⟨11, displayIndex d⟩
  | .rc d => ⟨12, displayIndex d⟩
  | .tune d => ⟨13, displayIndex d⟩
  | .rs d => ⟨14, displayIndex d⟩
  | .ams d => ⟨15, displayIndex d⟩
  | .kvs d => ⟨16, displayIndex d⟩
  | .level d => ⟨17, displayIndex d⟩
  | .mode d => ⟨18, displayIndex d⟩
  | .coarse d => ⟨19, displayIndex d⟩
  | .fineRaw d => ⟨20, displayIndex d⟩
  | .pegr j => ⟨21 + j, 0⟩
  | .pegl j => ⟨25 + j, 0⟩
  | .alg => ⟨29, 0⟩
  | .fb => ⟨30, 0⟩
  | .osync => ⟨31, 0⟩
  | .lfoSpeed => ⟨32, 0⟩
  | .lfoDelay => ⟨33, 0⟩
  | .lfoPmd => ⟨34, 0⟩
  | .lfoAmd => ⟨35, 0⟩
  | .lfoSync => ⟨36, 0⟩
  | .lfoWave => ⟨37, 0⟩
  | .pms => match strap with | .b116Hi => ⟨38, 0⟩ | .b117Lo => ⟨39, 0⟩
  | .name => ⟨40, 0⟩

/-- The instruction that record bytes `b` hold for a register (`decode_siteOf`). -/
def instrOf (strap : PmsSource) (b : Nat → Byte) : OutReg → Instr
  | .egr d j => .xegr (displayIndex d) j (b (opAddr d j))
  | .egl d j => .xegl (displayIndex d) j (b (opAddr d (4 + j)))
  | .bp d => .xbp (displayIndex d) (b (opAddr d 8))
  | .ld d => .xld (displayIndex d) (b (opAddr d 9))
  | .rd d => .xrd (displayIndex d) (b (opAddr d 10))
  | .lc d => .xlc (displayIndex d) (field (b (opAddr d 11)) 0 2)
  | .rc d => .xrc (displayIndex d) (field (b (opAddr d 11)) 2 2)
  | .tune d => .xtune (displayIndex d) (field (b (opAddr d 12)) 3 4)
  | .rs d => .xrs (displayIndex d) (field (b (opAddr d 12)) 0 3)
  | .ams d => .xams (displayIndex d) (field (b (opAddr d 13)) 0 2)
  | .kvs d => .xkvs (displayIndex d) (field (b (opAddr d 13)) 2 3)
  | .level d => .xlvl (displayIndex d) (b (opAddr d 14))
  | .mode d => .xmode (displayIndex d) (field (b (opAddr d 15)) 0 1)
  | .coarse d => .xcoarse (displayIndex d) (field (b (opAddr d 15)) 1 7) (field (b (opAddr d 15)) 0 1)
  | .fineRaw d => .xfine (displayIndex d) (b (opAddr d 16))
  | .pegr j => .gpegr j (b (102 + j))
  | .pegl j => .gpegl j (b (106 + j))
  | .alg => .galg (field (b 110) 0 5)
  | .fb => .gfb (field (b 110) 5 3)
  | .osync => .gosync (field (b 111) 3 1)
  | .lfoSpeed => .glspd (b 112)
  | .lfoDelay => .gldly (b 113)
  | .lfoPmd => .glpmd (b 114)
  | .lfoAmd => .glamd (b 115)
  | .lfoSync => .glsync (field (b 116) 0 1)
  | .lfoWave => .glwave (field (b 116) 1 3)
  | .pms =>
    match strap with
    | .b116Hi => .gpms .b116Hi (field (b 116) 4 3)
    | .b117Lo => .gpms .b117Lo (field (b 117) 0 3)
  | .name => .gname (Vector.ofFn fun k => b (118 + k))

/-- The registers in the order in which `DECODE` writes them: slice 0, which is `OP6`, first. -/
def wiredRegs : List OutReg :=
  ((List.finRange 6).flatMap fun i => allRegs.filter fun r => r.bank = some (displayIndex i)) ++
    allRegs.filter fun r => r.bank = none

theorem wiredSites_eq (strap : PmsSource) : wiredSites strap = wiredRegs.map (siteOf strap) := by
  cases strap <;> decide +kernel

theorem displayIndex_displayIndex (d : Fin 6) : displayIndex (displayIndex d) = d := by
  revert d; decide

theorem mem_allRegs (r : OutReg) : r ∈ allRegs := by
  cases r <;> simp [allRegs]

theorem mem_wiredRegs (r : OutReg) : r ∈ wiredRegs := by
  cases hb : r.bank with
  | none => exact List.mem_append_right _ (by simp [mem_allRegs, hb])
  | some d =>
    refine List.mem_append_left _ (List.mem_flatMap.2 ⟨displayIndex d, List.mem_finRange _, ?_⟩)
    simp [mem_allRegs, hb, displayIndex_displayIndex]

/-- A number for each register, rising along `allRegs`: its bank, then the row of its site. -/
def regKey (r : OutReg) : Nat := 41 * (5 - (siteOf .b116Hi r).slice) + (siteOf .b116Hi r).row

theorem allRegs_nodup : allRegs.Nodup := by
  have hchain : (allRegs.map regKey).IsChain (· < ·) := by decide +kernel
  exact .of_map regKey ((List.isChain_iff_pairwise.1 hchain).imp ne_of_lt)

theorem wiredRegs_perm : wiredRegs.Perm allRegs := by
  have hlen : wiredRegs.length ≤ allRegs.length := by decide +kernel
  exact ((allRegs_nodup.subperm fun r _ => mem_wiredRegs r).perm_of_length_le hlen).symm

theorem wiredRegs_nodup : wiredRegs.Nodup := wiredRegs_perm.nodup_iff.2 allRegs_nodup

theorem wiredRegs_length : wiredRegs.length = 145 := wiredRegs_perm.length_eq.trans rfl

@[simp] theorem dest_instrOf (strap : PmsSource) (b : Nat → Byte) (r : OutReg) : dest (instrOf strap b r) = r := by
  cases r with
  | pms => cases strap <;> rfl
  | _ => simp [instrOf, dest, displayIndex_displayIndex]

@[simp] theorem instrOf_wf (strap : PmsSource) (b : Nat → Byte) (r : OutReg) :
    (instrOf strap b r).wf strap = true := by
  cases r with
  | pms => cases strap <;> rfl
  | _ => rfl

end Sys2Proof.Machine
end

section
/-!
SUPPORT. Fetching: the wired sites give that program.
-/

namespace Sys2Proof.Machine

/-- The addresses a site reads, as bytes of `b`. -/
def siteBytes (b : Nat → Byte) (site : Site) : List Byte :=
  (List.range (siteLength site)).map fun k => b (siteAddr site + k)

theorem decode_operator (row : Fin 21) (i : Fin 6) (b : Byte) :
    decode ⟨row, i⟩ [b] = decodeOperator row i b := by
  simp [decode, row.isLt]

theorem decode_name (b : Nat → Byte) :
    decode ⟨40, 0⟩ ((List.range 10).map fun k => b (118 + k)) = .ok (.gname (Vector.ofFn fun k => b (118 + k))) := by
  have h : (⟨((List.range 10).map fun k => b (118 + k)).toArray, by simp⟩ : Vector Byte 10) =
      Vector.ofFn fun k : Fin 10 => b (118 + k) := Vector.ext fun k hk => by simp
  simp [decode, decodeName, ← h]

/-- The bytes at a register's site decode to its instruction. -/
theorem decode_siteOf (strap : PmsSource) (b : Nat → Byte) (r : OutReg) :
    decode (siteOf strap r) (siteBytes b (siteOf strap r)) = .ok (instrOf strap b r) := by
  cases r with
  | egr d j =>
    fin_cases j
    exacts [decode_operator 0 _ _, decode_operator 1 _ _, decode_operator 2 _ _, decode_operator 3 _ _]
  | egl d j =>
    fin_cases j
    exacts [decode_operator 4 _ _, decode_operator 5 _ _, decode_operator 6 _ _, decode_operator 7 _ _]
  | bp d => exact decode_operator 8 _ _
  | ld d => exact decode_operator 9 _ _
  | rd d => exact decode_operator 10 _ _
  | lc d => exact decode_operator 11 _ _
  | rc d => exact decode_operator 12 _ _
  | tune d => exact decode_operator 13 _ _
  | rs d => exact decode_operator 14 _ _
  | ams d => exact decode_operator 15 _ _
  | kvs d => exact decode_operator 16 _ _
  | level d => exact decode_operator 17 _ _
  | mode d => exact decode_operator 18 _ _
  | coarse d => exact decode_operator 19 _ _
  | fineRaw d => exact decode_operator 20 _ _
  | pegr j => fin_cases j <;> rfl
  | pegl j => fin_cases j <;> rfl
  | pms => cases strap <;> rfl
  | name => exact decode_name b
  | _ => rfl

/-- Every wired site lies in `RB[0..127]` (20_memory.md rule R63). -/
theorem siteOf_inRecord (strap : PmsSource) (r : OutReg) :
    siteAddr (siteOf strap r) + siteLength (siteOf strap r) ≤ Config.recSize := by
  have h : ∀ site ∈ wiredSites strap, siteAddr site + siteLength site ≤ Config.recSize := by
    cases strap <;> decide +kernel
  exact h _ (wiredSites_eq strap ▸ List.mem_map_of_mem (mem_wiredRegs r))

/-- Where the bytes of a site are readable, a run of them is the site's bytes. -/
theorem readBytes_siteBytes {rb : Memory} {site : Site} {b : Nat → Byte}
    (h : ∀ k, k < siteLength site → rb.read (siteAddr site + k) = some (b (siteAddr site + k))) :
    rb.readBytes (siteAddr site) (siteLength site) = some (siteBytes b site) :=
  (Memory.readBytes_eq_some ..).2 ⟨by simp [siteBytes], fun k hk => by simp [siteBytes, h k hk, hk]⟩

/-- A complete `RB` has the bytes of its record. -/
theorem read_of_record {rb : Memory} {record : List Byte} (h : rb.record = some record) {a : Nat}
    (ha : a < Config.recSize) : rb.read a = some (byteAt record a) := by
  obtain ⟨hlen, hread⟩ := (Memory.readBytes_eq_some ..).1 h
  have hr := hread a ha
  rw [Nat.zero_add] at hr
  rw [hr, byteAt, List.getD_eq_getElem _ _ (hlen ▸ ha), List.getElem?_eq_getElem]

theorem record_length {rb : Memory} {record : List Byte} (h : rb.record = some record) : record.length = 128 :=
  ((Memory.readBytes_eq_some ..).1 h).1

/-- Over a complete `RB` the site of a register gives its instruction. -/
theorem fetch_siteOf (strap : PmsSource) {rb : Memory} {record : List Byte} (h : rb.record = some record)
    (r : OutReg) : fetch rb (siteOf strap r) = .next (instrOf strap (byteAt record) r) := by
  have hin := siteOf_inRecord strap r
  exact (fetch_eq_next ..).2
    ⟨_, readBytes_siteBytes fun k hk => read_of_record h (by omega), decode_siteOf strap _ r⟩

/-- The program that a complete `RB` is: one instruction for each register. -/
theorem fetchProgram_of_record (strap : PmsSource) {rb : Memory} {record : List Byte} (h : rb.record = some record) :
    fetchProgram strap rb = .next (wiredRegs.map (instrOf strap (byteAt record))) := by
  rw [fetchProgram, fetchAll_eq_next, wiredSites_eq, List.forall₂_map_left_iff, List.forall₂_map_right_iff]
  exact List.forall₂_same.2 fun r _ => fetch_siteOf strap h r

/-- Whatever is fetched at the site of a register writes that register. -/
theorem dest_of_fetch {strap : PmsSource} {rb : Memory} {r : OutReg} {i : Instr}
    (h : fetch rb (siteOf strap r) = .next i) : dest i = r := by
  obtain ⟨bytes, hbytes, hdec⟩ := (fetch_eq_next ..).1 h
  obtain ⟨hlen, hread⟩ := (Memory.readBytes_eq_some ..).1 hbytes
  have hsite : rb.readBytes (siteAddr (siteOf strap r)) (siteLength (siteOf strap r)) =
      some (siteBytes (fun a => (rb.read a).getD 0) (siteOf strap r)) :=
    readBytes_siteBytes fun k hk => by simp [hread k hk, hlen, hk]
  cases hbytes.symm.trans hsite
  cases hdec.symm.trans (decode_siteOf strap _ r)
  exact dest_instrOf strap _ r

/-- The registers of a fetched program are all different, even where `RB` is not complete. -/
theorem dests_of_fetchProgram {strap : PmsSource} {rb : Memory} {is : List Instr}
    (h : fetchProgram strap rb = .next is) : is.map dest = wiredRegs := by
  rw [fetchProgram, fetchAll_eq_next, wiredSites_eq, List.forall₂_map_left_iff] at h
  refine (List.forall₂_eq_eq_eq ▸ List.forall₂_map_right_iff.2 ?_ : wiredRegs = is.map dest).symm
  exact h.imp fun r i hi => (dest_of_fetch hi).symm

end Sys2Proof.Machine
end

section
/-!
SUPPORT. The values of that program are those of the extractor map (30_encoding.md rule R88).
-/

namespace Sys2Proof.Machine

theorem field_eq_bitsOf (b : Byte) (lo w : Nat) (hw : 0 < w) : (field b lo w).toNat = bitsOf b (lo + w - 1) lo := by
  rw [field_toNat, bitsOf, show lo + w - 1 - lo + 1 = w by omega]

theorem tuneOf_toInt (t : BitVec 4) : (tuneOf t).toInt = (t.toNat : Int) - 7 := by
  revert t; decide

theorem algOf_toNat (a : BitVec 5) : (algOf a).toNat = a.toNat + 1 := by
  have := a.isLt
  simp only [algOf, BitVec.toNat_ofNat]
  omega

theorem bpNaOf_eq (b : Byte) : bpNaOf b = decide (99 < b.toNat) := rfl

theorem bpIdxOf_toNat (b : Byte) : (bpIdxOf b).toNat = if b.toNat ≤ 99 then b.toNat else 0 := by
  by_cases h : b.toNat ≤ 99
  · have hna : bpNaOf b = false := by simp [bpNaOf_eq, h]
    simp only [bpIdxOf, hna, h, if_true, Bool.false_eq_true, if_false, BitVec.toNat_setWidth]
    omega
  · have hna : bpNaOf b = true := by simpa [bpNaOf_eq] using h
    simp [bpIdxOf, hna, h]

theorem fixmult_eq_pow (n : Nat) (h : n < 4) : Config.fixmult n = 10 ^ n := by
  revert n; decide

/-- Twice the coarse value in RATIO mode. -/
theorem coarseX2Of_ratio (c : BitVec 7) : (coarseX2Of c 0).toNat = if c.toNat = 0 then 1 else 2 * c.toNat := by
  have := c.isLt
  by_cases h : c = 0
  · subst h; rfl
  · have hn : c.toNat ≠ 0 := fun hn => h (BitVec.eq_of_toNat_eq hn)
    simp only [coarseX2Of, if_true, if_neg h, if_neg hn, BitVec.toNat_ofNat]
    omega

/-- Twice the coarse value in FIXED mode. -/
theorem coarseX2Of_fixed (c : BitVec 7) {m : BitVec 1} (hm : m ≠ 0) :
    (coarseX2Of c m).toNat = 2 * 10 ^ (c.toNat % 4) := by
  have hlt : c.toNat % 4 < 4 := Nat.mod_lt _ (by decide)
  have hsel : (c.extractLsb' 0 2).toNat = c.toNat % 4 := by simp [BitVec.extractLsb'_toNat]
  have hpow : (10 : Nat) ^ (c.toNat % 4) ≤ 10 ^ 3 := Nat.pow_le_pow_right (by decide) (by omega)
  rw [coarseX2Of, if_neg hm, hsel, fixmult_eq_pow _ hlt, BitVec.toNat_ofNat]
  omega

/-- The selector and the mode bit of a byte resolve to its coarse value (R96, R147). -/
theorem coarseX2Of_field (b : Byte) :
    ((coarseX2Of (field b 1 7) (field b 0 1)).toNat : Rat) / 2 = coarseRef b := by
  have hc : (field b 1 7).toNat = bitsOf b 7 1 := field_eq_bitsOf b 1 7 (by decide)
  have hm : (field b 0 1).toNat = bitsOf b 0 0 := field_eq_bitsOf b 0 1 (by decide)
  by_cases h : field b 0 1 = 0
  · have h0 : bitsOf b 0 0 = 0 := by rw [← hm, h]; rfl
    rw [h, coarseX2Of_ratio, hc, coarseRef, if_pos h0]
    split <;> simp
  · have h0 : bitsOf b 0 0 ≠ 0 := fun h0 => h (BitVec.eq_of_toNat_eq (hm.trans h0))
    have hsel : bitsOf b 7 1 % 4 = bitsOf b 2 1 := by simp only [bitsOf]; omega
    rw [coarseX2Of_fixed _ h, hc, hsel, coarseRef, if_neg h0]
    push_cast
    ring

/-! ### The name -/

theorem keepAscii_eq (bytes : List Byte) :
    keepAscii bytes = (bytes.filter fun b => b < 128).map fun b => BitVec.ofNat 7 b.toNat := by
  have hfilter (b : Byte) : decide (b.toNat ≤ 127) = decide (b < 128) :=
    decide_eq_decide.2 (by rw [BitVec.lt_def]; exact Nat.lt_succ_iff.symm)
  have hmap (b : Byte) : b.setWidth 7 = BitVec.ofNat 7 b.toNat := rfl
  simp only [keepAscii, hfilter, hmap]

theorem nameOf_eq_nameRef (ws : List Code) (bytes : List Byte) : nameOf ws bytes = nameRef ws bytes := by
  have hws : ws.contains = fun c => decide (c ∈ ws) := funext fun c => List.contains_eq_mem c ws
  rw [nameOf, nameRef, trimWs, keepAscii_eq, hws, List.rdropWhile]

theorem trimWs_length_le (ws t : List Code) : (trimWs ws t).length ≤ t.length := by
  rw [trimWs, List.length_reverse]
  calc ((t.dropWhile ws.contains).reverse.dropWhile ws.contains).length
      ≤ (t.dropWhile ws.contains).reverse.length := (List.dropWhile_sublist _).length_le
    _ = (t.dropWhile ws.contains).length := List.length_reverse
    _ ≤ t.length := (List.dropWhile_sublist _).length_le

theorem nameOf_length_le (ws : List Code) (n : Vector Byte 10) : (nameOf ws n.toList).length ≤ 10 := by
  calc (nameOf ws n.toList).length ≤ (keepAscii n.toList).length := trimWs_length_le ..
    _ = (n.toList.filter fun b => b.toNat ≤ 127).length := List.length_map _
    _ ≤ n.toList.length := List.length_filter_le ..
    _ = 10 := n.length_toList

theorem nameCells_toList (t : List Code) (h : t.length ≤ 10) :
    (nameCells t).toList = t ++ List.replicate (10 - t.length) 0 := by
  refine List.ext_getElem (by simp; omega) fun k hk _ => ?_
  by_cases hkt : k < t.length <;> simp [nameCells, hkt, List.getElem_append]

/-- `GNAME`'s value is the reference name, its length, and 0 in the cells beyond it (R97, R184). -/
theorem writtenValue_gname (p : Params) (n : Vector Byte 10) :
    writtenValue p (.gname n) = .name (nameRef p.ws n.toList).length
      (nameRef p.ws n.toList ++ List.replicate (10 - (nameRef p.ws n.toList).length) 0) := by
  have hlen := nameOf_length_le p.ws n
  rw [writtenValue, nameCells_toList _ hlen, nameOf_eq_nameRef, BitVec.toNat_ofNat, Nat.mod_eq_of_lt]
  rw [← nameOf_eq_nameRef]
  omega

/-- The instruction of a register gives it the value of the extractor map (R88); for `LFO.WAVE` it keeps the code. -/
theorem writtenValue_instrOf (p : Params) (record : List Byte) {r : OutReg} (hr : r ≠ .lfoWave) :
    writtenValue p (instrOf p.pmsSource (byteAt record) r) = specReg p record r := by
  cases r with
  | bp d =>
    simp only [instrOf, writtenValue, specReg, bpIdxOf_toNat, bpNaOf_eq]
    split <;> simp_all
  | tune d => simp [instrOf, writtenValue, specReg, tuneOf_toInt, field_eq_bitsOf]
  | coarse d => simp [instrOf, writtenValue, specReg, coarseX2Of_field]
  | alg => simp [instrOf, writtenValue, specReg, algOf_toNat, field_eq_bitsOf]
  | pms =>
    cases hs : p.pmsSource <;> simp [instrOf, writtenValue, specReg, hs, field_eq_bitsOf]
  | lfoWave => exact absurd rfl hr
  | name =>
    have h : (Vector.ofFn fun k : Fin 10 => byteAt record (118 + k)).toList =
        (List.range 10).map fun k => byteAt record (118 + k) := List.ext_getElem (by simp) fun k _ _ => by simp
    simp only [instrOf, writtenValue_gname, specReg, h]
  | _ => simp [instrOf, writtenValue, specReg, field_eq_bitsOf]

theorem writtenValue_instrOf_lfoWave (p : Params) (record : List Byte) :
    writtenValue p (instrOf p.pmsSource (byteAt record) .lfoWave) = .unsigned (bitsOf (byteAt record 116) 3 1) := by
  simp [instrOf, writtenValue, field_eq_bitsOf]

end Sys2Proof.Machine
end

section
/-!
SUPPORT. `DECODE` leaves the reference decode of the record in `RB`, and every reference decode is in the documented
ranges.
-/

namespace Sys2Proof.Machine

/-! ### DECODE -/

/-- A Voice is the reference decode of a record: every register reads as the extractor map says (R88), and the wave
code is kept (R182). -/
def IsDecodeOf (p : Params) (record : List Byte) (v : Voice) : Prop :=
  (∀ r, readReg v r = specReg p record r) ∧ v.lfo.waveCode.toNat = bitsOf (byteAt record 116) 3 1

theorem readReg_lfoWave {v : Voice} {n : Nat} (h : v.lfo.waveCode.toNat = n) :
    readReg v .lfoWave = if n ≤ 5 then .wave (some n) else .wave none := by
  subst h
  by_cases hn : v.lfo.waveCode.toNat ≤ 5
  · simp [readReg, waveOf, waveNa, hn]
  · simp [readReg, waveOf, waveNa, hn, Nat.lt_of_not_le hn]

theorem Writes.isDecodeOf {p : Params} {record : List Byte} {v w : Voice}
    (h : Writes p (wiredRegs.map (instrOf p.pmsSource (byteAt record))) v w) : IsDecodeOf p record w := by
  have hraw (r : OutReg) : rawReg w r = writtenValue p (instrOf p.pmsSource (byteAt record) r) := by
    simpa using h.1 _ (List.mem_map_of_mem (mem_wiredRegs r)) (instrOf_wf _ _ r)
  have hwave : w.lfo.waveCode.toNat = bitsOf (byteAt record 116) 3 1 := by
    simpa [writtenValue_instrOf_lfoWave] using hraw .lfoWave
  refine ⟨fun r => ?_, hwave⟩
  by_cases hr : r = .lfoWave
  · rw [hr]
    exact readReg_lfoWave hwave
  · rw [← rawReg_of_ne w hr, hraw, writtenValue_instrOf p record hr]

/-- A record has one reference decode. -/
theorem IsDecodeOf.unique {p : Params} {record : List Byte} {v w : Voice} (hv : IsDecodeOf p record v)
    (hw : IsDecodeOf p record w) : v = w := by
  refine Voice.ext_rawReg fun r => ?_
  by_cases hr : r = .lfoWave
  · rw [hr, rawReg_lfoWave, rawReg_lfoWave, hv.2, hw.2]
  · rw [rawReg_of_ne v hr, rawReg_of_ne w hr, hv.1, hw.1]

/-- The program that a complete `RB` is completes, and leaves the reference decode in the output registers. -/
theorem execAll_of_record {s : State} {rb : Memory} {record : List Byte} (h : rb.record = some record) :
    ∃ is v, fetchProgram s.params.pmsSource rb = .next is ∧ execAll is s = .next { s with voice := v } ∧
      IsDecodeOf s.params record v := by
  have hdest : (wiredRegs.map (instrOf s.params.pmsSource (byteAt record))).map dest = wiredRegs := by
    simp [Function.comp_def]
  obtain ⟨v, hv, hw⟩ := execAll_completes (hdest.symm ▸ wiredRegs_nodup) s
  exact ⟨_, v, fetchProgram_of_record _ h, hv, hw.isDecodeOf⟩

/-- `DECODE` with a record in `RB` sets `VALID`, leaves the record's reference decode in the output registers, and
changes nothing else (R192). -/
theorem cmdDecode_of_record {s : State} {record : List Byte} (h : s.rb.record = some record) :
    ∃ v, cmdDecode s = .next { s with voice := v, valid := true } ∧ IsDecodeOf s.params record v := by
  obtain ⟨is, v, hfetch, hexec, hv⟩ := execAll_of_record (s := s) h
  exact ⟨v, (cmdDecode_eq_next ..).2 ⟨(Memory.complete_iff_record _).2 ⟨record, h⟩, is, _, hfetch, hexec, rfl⟩, hv⟩

/-- What a `DECODE` that answers a next state did: `RB` held a record, and the outputs are its reference decode. -/
theorem cmdDecode_cases {s t : State} (h : cmdDecode s = .next t) :
    ∃ record v, s.rb.record = some record ∧ IsDecodeOf s.params record v ∧
      t = { s with voice := v, valid := true } := by
  obtain ⟨hc, -⟩ := (cmdDecode_eq_next ..).1 h
  obtain ⟨record, hrec⟩ := (Memory.complete_iff_record _).1 hc
  obtain ⟨v, hv, hdec⟩ := cmdDecode_of_record hrec
  exact ⟨record, v, hrec, hdec, Host.Outcome.next.inj (h.symm.trans hv)⟩

/-! ### Ranges -/

theorem bitsOf_lt (b : Byte) (hi lo : Nat) : bitsOf b hi lo < 2 ^ (hi - lo + 1) := Nat.mod_lt _ (Nat.two_pow_pos _)

/-- The break point of a decoded bank is in range (R28). -/
theorem IsDecodeOf.bp_wf {p : Params} {record : List Byte} {v : Voice} (h : IsDecodeOf p record v) (d : Fin 6) :
    v.op[d].bpIdx.toNat ≤ 99 ∧ (v.op[d].bpNa = true → v.op[d].bpIdx = 0) := by
  have hbp := h.1 (.bp d)
  simp only [readReg, specReg] at hbp
  split at hbp <;> simp_all [← BitVec.toNat_inj]

/-- The tune of a decoded bank is in range (R32). -/
theorem IsDecodeOf.tune_wf {p : Params} {record : List Byte} {v : Voice} (h : IsDecodeOf p record v) (d : Fin 6) :
    -7 ≤ v.op[d].tune.toInt ∧ v.op[d].tune.toInt ≤ 8 := by
  have htune : v.op[d].tune.toInt = _ := RegValue.signed.inj (h.1 (.tune d))
  have := bitsOf_lt (byteAt record (opAddr d 12)) 6 3
  omega

/-- Twice the coarse value of a byte in RATIO mode is 1 or an even number up to 254 (R36). -/
theorem coarse_wf_ratio {n : Nat} {b : Byte} (h0 : bitsOf b 0 0 = 0) (h : (n : Rat) / 2 = coarseRef b) :
    n = 1 ∨ n % 2 = 0 ∧ 2 ≤ n ∧ n ≤ 254 := by
  have hlt := bitsOf_lt b 7 1
  rw [coarseRef, if_pos h0] at h
  split at h
  · left
    have : (n : Rat) = (1 : Nat) := by push_cast; linarith
    exact_mod_cast this
  · right
    have : (n : Rat) = (2 * bitsOf b 7 1 : Nat) := by push_cast; linarith
    have : n = 2 * bitsOf b 7 1 := by exact_mod_cast this
    omega

/-- Twice the coarse value of a byte in FIXED mode is twice a power of ten (R36). -/
theorem coarse_wf_fixed {n : Nat} {b : Byte} (h0 : bitsOf b 0 0 ≠ 0) (h : (n : Rat) / 2 = coarseRef b) :
    n ∈ [2, 20, 200, 2000] := by
  have hlt := bitsOf_lt b 2 1
  rw [coarseRef, if_neg h0] at h
  have hq : (n : Rat) = (2 * 10 ^ bitsOf b 2 1 : Nat) := by push_cast; linarith
  have hn : n = 2 * 10 ^ bitsOf b 2 1 := by exact_mod_cast hq
  have hpow : ∀ k < 4, 2 * 10 ^ k ∈ [2, 20, 200, 2000] := by decide
  exact hn ▸ hpow _ hlt

theorem OpBank.wf_iff (o : OpBank) : o.wf = true ↔
    (o.bpIdx.toNat ≤ 99 ∧ (o.bpNa = true → o.bpIdx = 0)) ∧ (-7 ≤ o.tune.toInt ∧ o.tune.toInt ≤ 8) ∧
    (o.mode = 0 → o.coarseX2.toNat = 1 ∨
      o.coarseX2.toNat % 2 = 0 ∧ 2 ≤ o.coarseX2.toNat ∧ o.coarseX2.toNat ≤ 254) ∧
    (o.mode ≠ 0 → o.coarseX2.toNat ∈ [2, 20, 200, 2000]) := by
  by_cases hm : o.mode = 0#1 <;> cases hna : o.bpNa <;> simp [OpBank.wf, hm, hna, and_assoc]

theorem IsDecodeOf.op_wf {p : Params} {record : List Byte} {v : Voice} (h : IsDecodeOf p record v) (d : Fin 6) :
    v.op[d].wf = true := by
  have hmode : v.op[d].mode.toNat = bitsOf (byteAt record (opAddr d 15)) 0 0 := RegValue.unsigned.inj (h.1 (.mode d))
  have hcoarse : (v.op[d].coarseX2.toNat : Rat) / 2 = coarseRef (byteAt record (opAddr d 15)) :=
    RegValue.rational.inj (h.1 (.coarse d))
  refine (OpBank.wf_iff _).2 ⟨h.bp_wf d, h.tune_wf d, fun hm => coarse_wf_ratio ?_ hcoarse,
    fun hm => coarse_wf_fixed ?_ hcoarse⟩
  · rw [← hmode, hm]; rfl
  · rw [← hmode]
    exact fun h0 => hm (BitVec.eq_of_toNat_eq h0)

/-- Every reference decode is in the documented ranges (R28, R32, R36, R38, R40). -/
theorem IsDecodeOf.wf {p : Params} {record : List Byte} {v : Voice} (h : IsDecodeOf p record v) : v.wf = true := by
  have hop : ∀ o ∈ v.op.toList, o.wf = true := fun o ho => by
    obtain ⟨k, hk, rfl⟩ := Vector.mem_iff_getElem.1 (Vector.mem_toList_iff.1 ho)
    exact h.op_wf ⟨k, hk⟩
  have halg : v.alg.toNat = bitsOf (byteAt record 110) 4 0 + 1 := RegValue.unsigned.inj (h.1 .alg)
  have halgLt := bitsOf_lt (byteAt record 110) 4 0
  obtain ⟨hlen, hname⟩ := RegValue.name.inj (h.1 .name)
  have hle : v.nameLen.toNat ≤ 10 := by
    have hten := congrArg List.length hname
    rw [Vector.length_toList, List.length_append, List.length_replicate] at hten
    omega
  have hdrop : (v.name.toList.drop v.nameLen.toNat).all (· = 0) = true := by
    rw [hname, hlen, List.drop_left]
    simp
  simp only [Voice.wf, Bool.and_eq_true, List.all_eq_true, decide_eq_true_eq]
  exact ⟨⟨⟨hop, by omega, by omega⟩, hle⟩, by simpa using hdrop⟩

end Sys2Proof.Machine
end

section
/-!
SUPPORT. What a host command that answers a next state did, said once; what every step keeps follows from it.
-/

namespace Sys2Proof.Machine

/-- What a host command that answers a next state did: `RESET`, a `DECODE`, a run of writes to `RB`, or nothing to the
PDU, the host then holding no bank that `VALIDATE` did not accept or that it did not hold before. -/
inductive CommandEffect : Command → State → State → Prop
  | reset (s : State) : CommandEffect .reset s { s with rb := [], voice := Voice.blank, valid := false }
  | decode {s : State} {record : List Byte} {v : Voice} (hrec : s.rb.record = some record)
      (hdec : IsDecodeOf s.params record v) : CommandEffect .decode s { s with voice := v, valid := true }
  | write {c : Command} (s : State) {a : Nat} {bs : List Byte} (hc : c.writesRecord = true)
      (ho : c.writesOutputs = false) (hlen : a + bs.length ≤ Config.recSize) :
      CommandEffect c s { s with rb := s.rb.writeBytes a bs }
  | host {c : Command} {s t : State} (hrb : t.rb = s.rb) (hvoice : t.voice = s.voice) (hvalid : t.valid = s.valid)
      (hparams : t.params = s.params) (hbanks : ∀ buf ∈ t.banks, buf ∈ s.banks ∨ validate buf = true) :
      CommandEffect c s t

/-- A command that answers the host and changes nothing else. -/
theorem CommandEffect.reply (c : Command) (s : State) (r : Reply) : CommandEffect c s (s.reply r) :=
  .host rfl rfl rfl rfl fun _ => .inl

theorem CommandEffect.loadRec {c : Command} (s : State) (record : Vector Byte 128) (hc : c.writesRecord = true)
    (ho : c.writesOutputs = false) : CommandEffect c s (s.loadRec record) :=
  .write s hc ho (by simp [Config.recSize])

theorem writeRec_eq_next (s t : State) (a : Nat) (v : Byte) :
    s.writeRec a v = .next t ↔ a < Config.recSize ∧ t = { s with rb := s.rb.write a v } := by
  by_cases h : a < Config.recSize <;> simp [State.writeRec, h, eq_comm]

theorem cmdRecRead_eq_next (s t : State) (a : Nat) :
    cmdRecRead a s = .next t ↔ a < Config.recSize ∧ ∃ b, s.rb.read a = some b ∧ t = s.reply (.recByte a b) := by
  by_cases h : a < Config.recSize <;> cases hb : s.rb.read a <;> simp [cmdRecRead, h, hb, eq_comm]

theorem cmdRecRead_unwritten {s : State} {a : Nat} (ha : a < Config.recSize) (h : s.rb.read a = none) :
    cmdRecRead a s = .fault .unwritten := by
  simp [cmdRecRead, ha, h]

theorem cmdRead_eq_next (s t : State) (r : OutReg) :
    cmdRead r s = .next t ↔ s.valid = true ∧ t = s.reply (.value r (readReg s.voice r)) := by
  by_cases h : s.valid = true <;> simp [cmdRead, h, eq_comm]

theorem cmdFine_eq_next (s t : State) (d : Fin 6) :
    cmdFine d s = .next t ↔ s.valid = true ∧ t = s.reply (.fine d (fineOf s.voice.op[d])) := by
  by_cases h : s.valid = true <;> simp [cmdFine, h, eq_comm]

theorem cmdFineDec_cases {s t : State} {d : Fin 6} (h : cmdFineDec d s = .next t) :
    ∃ dp q n, t = { s.reply (.fineDec d dp q) with draws := n } := by
  unfold cmdFineDec at h
  split at h <;> cases h
  exact ⟨_, _, _, rfl⟩

theorem cmdLoadSlot_cases {s t : State} {buf : List Byte} {slot : Nat} (h : cmdLoadSlot buf slot s = .next t) :
    ∃ record, t = s.loadRec record := by
  unfold cmdLoadSlot at h
  split at h
  · obtain ⟨-, record, -, ht⟩ := (cmdLoadSlice_eq_next ..).1 h
    exact ⟨record, ht⟩
  · cases h

theorem cmdPresentBank_effect {c : Command} {s t : State} {src : BankSource} (h : cmdPresentBank src s = .next t) :
    CommandEffect c s t := by
  cases src with
  | unreadable =>
    cases h
    exact .host rfl rfl rfl rfl fun _ => .inl
  | bytes buf =>
    simp only [cmdPresentBank] at h
    split at h
    · next hval =>
      cases h
      refine .host rfl rfl rfl rfl fun other hother => ?_
      rcases List.mem_cons.1 hother with rfl | hold
      exacts [.inr hval, .inl hold]
    · cases h
      exact .host rfl rfl rfl rfl fun _ => .inl

theorem runCommand_effect {c : Command} {s t : State} (h : runCommand c s = .next t) : CommandEffect c s t := by
  cases c with
  | reset => cases h; exact .reset s
  | load record => cases h; exact .loadRec s record rfl rfl
  | recWrite a v =>
    obtain ⟨ha, rfl⟩ := (writeRec_eq_next ..).1 h
    exact .write s (bs := [v]) rfl rfl ha
  | recRead a =>
    obtain ⟨-, b, -, rfl⟩ := (cmdRecRead_eq_next ..).1 h
    exact .reply ..
  | decode =>
    obtain ⟨record, v, hrec, hdec, rfl⟩ := cmdDecode_cases h
    exact .decode hrec hdec
  | read r =>
    obtain ⟨-, rfl⟩ := (cmdRead_eq_next ..).1 h
    exact .reply ..
  | readStatus => cases h; exact .reply ..
  | readStrap => cases h; exact .reply ..
  | fine d =>
    obtain ⟨-, rfl⟩ := (cmdFine_eq_next ..).1 h
    exact .reply ..
  | fineDec d =>
    obtain ⟨dp, q, n, rfl⟩ := cmdFineDec_cases h
    exact .host rfl rfl rfl rfl fun _ => .inl
  | presentBank src => exact cmdPresentBank_effect h
  | loadSlice buf k =>
    obtain ⟨-, record, -, rfl⟩ := (cmdLoadSlice_eq_next ..).1 h
    exact .loadRec s record rfl rfl
  | loadSlot buf slot =>
    obtain ⟨record, rfl⟩ := cmdLoadSlot_cases h
    exact .loadRec s record rfl rfl

/-- A property of states that the host's queue has no part in, and that every command keeps, every step keeps. -/
theorem step_keeps {P : State → Prop} (hpending : ∀ s rest, P s → P { s with pending := rest })
    (hcommand : ∀ c s t, CommandEffect c s t → P s → P t) {s t : State} (hs : P s) (h : step s = .next t) : P t := by
  rcases step_cases s t h with ⟨-, rfl⟩ | ⟨c, rest, -, hc⟩
  · exact hs
  · exact hcommand c _ t (runCommand_effect hc) (hpending s rest hs)

theorem CommandEffect.params_eq {c : Command} {s t : State} (h : CommandEffect c s t) : t.params = s.params := by
  cases h with
  | host _ _ _ hparams _ => exact hparams
  | _ => rfl

theorem CommandEffect.outputs_eq {c : Command} {s t : State} (h : CommandEffect c s t)
    (hc : c.writesOutputs = false) : t.voice = s.voice ∧ t.valid = s.valid := by
  cases h with
  | reset | decode => cases hc
  | write => exact ⟨rfl, rfl⟩
  | host _ hvoice hvalid _ _ => exact ⟨hvoice, hvalid⟩

theorem CommandEffect.rb_eq {c : Command} {s t : State} (h : CommandEffect c s t)
    (hc : c.writesRecord = false) : t.rb = s.rb := by
  cases h with
  | reset => cases hc
  | decode => rfl
  | write _ hw => cases hw.symm.trans hc
  | host hrb => exact hrb

/-- Writing keeps a complete `RB` complete. -/
theorem Memory.complete_writeBytes {m : Memory} (a : Nat) (bs : List Byte) (h : m.complete = true) :
    (m.writeBytes a bs).complete = true := by
  rw [Memory.complete_iff] at h ⊢
  intro b hb
  rw [Memory.read_writeBytes]
  split
  · next hin => simpa using (by omega : b - a < bs.length)
  · exact h b hb

theorem CommandEffect.inv {c : Command} {s t : State} (h : CommandEffect c s t) (hs : s.Inv) : t.Inv := by
  obtain ⟨hwf, hin, hparams, hbanks, hvalid⟩ := hs
  cases h with
  | reset => exact ⟨rfl, rfl, hparams, hbanks, fun hv => nomatch hv⟩
  | decode hrec hdec =>
    exact ⟨hwf, hin, hparams, hbanks, fun _ => ⟨hdec.wf, (Memory.complete_iff_record _).2 ⟨_, hrec⟩⟩⟩
  | write _ _ _ hlen =>
    refine ⟨Memory.writeBytes_wf _ _ _ hwf, Memory.writeBytes_inRecord _ _ _ hlen hin, hparams, hbanks, fun hv => ?_⟩
    obtain ⟨hvoice, hcomplete⟩ := hvalid hv
    exact ⟨hvoice, Memory.complete_writeBytes _ _ hcomplete⟩
  | host hrb hvoice hval hpar hbank =>
    rw [State.Inv, hrb, hvoice, hval, hpar]
    exact ⟨hwf, hin, hparams, fun buf hb => (hbank buf hb).elim (hbanks buf) id, hvalid⟩

theorem CommandEffect.holdsADecode {c : Command} {s t : State} (h : CommandEffect c s t) (hs : s.HoldsADecode) :
    t.HoldsADecode := by
  cases h with
  | reset => exact fun hv => nomatch hv
  | decode hrec hdec => exact fun _ => ⟨_, record_length hrec, hdec.1⟩
  | write => exact hs
  | host _ hvoice hval hpar _ => rwa [State.HoldsADecode, hvoice, hval, hpar]

end Sys2Proof.Machine
end

section
/-!
PROOFS. The statements of 10_state.md.
-/

namespace Sys2Proof.Machine

/-- Settles O49: each command's effect keeps the invariant; a `DECODE` leaves a reference decode, which is in range. -/
theorem everyStepKeepsTheInvariant : Obligations.EveryStepKeepsTheInvariant :=
  fun _ _ hs h => step_keeps (P := State.Inv) (fun _ _ => id) (fun _ _ _ he => he.inv) hs h

/-- Settles O51: `VALID` is set by `DECODE` alone, which leaves the reference decode of the record in `RB`. -/
theorem validMeansTheOutputsAreADecode : Obligations.ValidMeansTheOutputsAreADecode :=
  ⟨fun hv => absurd hv Bool.false_ne_true,
    fun _ _ hs h => step_keeps (P := State.HoldsADecode) (fun _ _ => id) (fun _ _ _ he => he.holdsADecode) hs h⟩

/-- Settles O6: the program of a complete `RB` is one instruction for each register. -/
theorem wiredExtractorsWriteEachRegisterOnce : Obligations.WiredExtractorsWriteEachRegisterOnce := by
  intro strap rb hc
  obtain ⟨record, hrec⟩ := (Memory.complete_iff_record rb).1 hc
  refine ⟨_, fetchProgram_of_record strap hrec, ?_, ?_, allRegs_nodup, fun i hi => ?_⟩
  · rw [List.length_map, wiredRegs_length]
  · simpa [Function.comp_def] using wiredRegs_perm
  · obtain ⟨r, -, rfl⟩ := List.mem_map.1 hi
    exact instrOf_wf strap _ r

/-- Settles O24: the instructions of a program write different registers, so their writes commute. -/
theorem extractorOrderIsNotObservable : Obligations.ExtractorOrderIsNotObservable :=
  fun _ _ _ _ s hfetch hperm => execAll_perm hperm (dests_of_fetchProgram hfetch ▸ wiredRegs_nodup) s

/-- Settles O25: both Voices are the reference decode of the same record under the same parameters. -/
theorem decodeForgetsTheEarlierVoice : Obligations.DecodeForgetsTheEarlierVoice := by
  intro s t rs rt hs ht hrb hparams hc
  obtain ⟨record, hrec⟩ := (Memory.complete_iff_record s.rb).1 hc
  obtain ⟨v, hv, hdv⟩ := cmdDecode_of_record (s := { s with pending := rs }) hrec
  obtain ⟨w, hw, hdw⟩ := cmdDecode_of_record (s := { t with pending := rt }) (hrb ▸ hrec)
  have hvw : v = w := hdv.unique (hparams ▸ hdw)
  exact ⟨_, _, (step_cons s _ rs hs).trans hv, (step_cons t _ rt ht).trans hw, hvw⟩

/-- Settles O29: a `DECODE` leaves a reference decode, and each of those is in range. -/
theorem decodedVoiceIsInRange : Obligations.DecodedVoiceIsInRange := by
  intro s t rest hp h
  obtain ⟨record, v, -, hdec, rfl⟩ := cmdDecode_cases ((step_cons s _ rest hp).symm.trans h)
  exact hdec.wf

/-- Settles O34: no command's effect has a place for the parameters. -/
theorem strapIsReadableAndNeverMoves : Obligations.StrapIsReadableAndNeverMoves :=
  ⟨fun s rest hp => step_cons s _ rest hp,
    fun s _ h => step_keeps (P := fun t => t.params = s.params) (fun _ _ => id)
      (fun _ _ _ he hs => he.params_eq.trans hs) rfl h⟩

/-- Settles O52, from the effect of the command. -/
theorem onlyTheRightCommandsWrite : Obligations.OnlyTheRightCommandsWrite := by
  intro s t c rest hp h
  have he : CommandEffect c { s with pending := rest } t := runCommand_effect ((step_cons s c rest hp).symm.trans h)
  exact ⟨he.outputs_eq, fun hc => ⟨he.rb_eq hc, fun a => congrArg (Memory.read · a) (he.rb_eq hc)⟩⟩

/-- Settles O22: every wired site of a complete `RB` gives an instruction, and their program completes. -/
theorem decodeStepRunsTheDecodedInstructions : Obligations.DecodeStepRunsTheDecodedInstructions := by
  intro s rest hp hc
  obtain ⟨record, hrec⟩ := (Memory.complete_iff_record s.rb).1 hc
  obtain ⟨is, v, hfetch, hexec, -⟩ := execAll_of_record (s := { s with pending := rest }) hrec
  refine ⟨is, _, hfetch, (fetchAll_eq_next ..).1 hfetch, hexec, ?_⟩
  rw [step_cons s _ rest hp]
  exact (cmdDecode_eq_next ..).2 ⟨hc, is, _, hfetch, hexec, rfl⟩

/-- Settles O32: reading after a write, and the two faults of a host access. -/
theorem singleByteHostAccess : Obligations.SingleByteHostAccess := by
  intro s a v rest
  refine ⟨fun hp => ⟨fun ha => ?_, fun ha => ?_⟩, fun hp => ⟨fun ha hr => ?_, fun ha hr => ?_, fun ha => ?_⟩⟩
  · refine ⟨s.rb.write a v, ?_, Memory.read_write_same .., fun b hb => Memory.read_write_other _ _ _ _ hb⟩
    rw [step_cons s _ rest hp]
    exact (writeRec_eq_next ..).2 ⟨ha, rfl⟩
  · rw [step_cons s _ rest hp]
    exact if_neg (Nat.not_lt.2 ha)
  · rw [step_cons s _ rest hp]
    exact (cmdRecRead_eq_next ..).2 ⟨ha, v, hr, rfl⟩
  · rw [step_cons s _ rest hp]
    exact cmdRecRead_unwritten ha hr
  · rw [step_cons s _ rest hp]
    exact if_neg (Nat.not_lt.2 ha)

/-- Settles O36: with `VALID = 0` and no byte written, every use of a value meets one that is not there. -/
theorem resetStateHasNoVoice : Obligations.ResetStateHasNoVoice :=
  ⟨rfl, fun _ => rfl, rfl, fun _ _ => rfl, fun _ _ => rfl, fun _ _ => rfl, fun _ => rfl,
    fun _ cs ha => cmdRecRead_unwritten (s := { State.reset with pending := cs }) ha rfl⟩

/-- Settles O50: nothing is written, no bank is held, `VALID` is 0, and the default `WS` contains the space. -/
theorem resetMeetsTheInvariant : Obligations.ResetMeetsTheInvariant :=
  ⟨rfl, rfl, by decide, fun _ hb => absurd hb List.not_mem_nil, fun hv => absurd hv Bool.false_ne_true⟩

end Sys2Proof.Machine
end

section
/-!
PROOFS. The record buffer (20_memory.md section 4): a write is seen at its own address and nowhere else (R72), and keeps
the canonical form.
-/

namespace Sys2Proof.Machine

/-- Settles O30, from the laws of one write: what it leaves to read at its own address and at every other one, and that
the addresses stay strictly rising. -/
theorem recordBufferReadAfterWrite : Obligations.RecordBufferReadAfterWrite := by
  intro m a b v hwf
  refine ⟨?same, ?other, ?canonical⟩
  case same => exact Memory.read_write_same m a v
  case other => exact Memory.read_write_other m a b v
  case canonical => exact Memory.write_wf m a v hwf

end Sys2Proof.Machine
end

section
/-!
SUPPORT. The decoder, site by site: which sites exist, which bytes each takes, and that the sites that exist are those
an instance is wired with under one strap or the other (30_encoding.md rule R88).
-/

namespace Sys2Proof.Machine

theorem decode_global (row : Fin 19) (b : Byte) : decode ⟨21 + row, 0⟩ [b] = decodeGlobal (21 + row) b := by
  have hrow := row.isLt
  have hop : ¬ 21 + (row : Nat) < 21 := by omega
  have hname : 21 + (row : Nat) ≠ 40 := by omega
  have hone : 21 + (row : Nat) < 40 := by omega
  simp only [decode, hop, hname, hone, if_true, if_false]

theorem decode_name_of_length {bytes : List Byte} (h : bytes.length = 10) :
    decode ⟨40, 0⟩ bytes = .ok (.gname ⟨bytes.toArray, by simp [h]⟩) := by
  simp [decode, decodeName, h]

theorem Site.wf_operator {row slice : Nat} (hrow : row < 21) : (Site.mk row slice).wf = decide (slice < 6) := by
  simp [Site.wf, hrow]

theorem Site.wf_global {row slice : Nat} (hrow : ¬ row < 21) :
    (Site.mk row slice).wf = true ↔ row < 41 ∧ slice = 0 := by
  simp [Site.wf, hrow]

/-- The sites that exist: an operator row in a slice, a one-byte voice-global row, and `GNAME`'s (R88). -/
theorem Site.wf_cases {site : Site} (h : site.wf = true) :
    (∃ (row : Fin 21) (i : Fin 6), site = ⟨row, i⟩) ∨ (∃ row : Fin 19, site = ⟨21 + row, 0⟩) ∨ site = ⟨40, 0⟩ := by
  obtain ⟨row, slice⟩ := site
  by_cases hrow : row < 21
  · have hslice : slice < 6 := by simpa [Site.wf_operator hrow] using h
    exact .inl ⟨⟨row, hrow⟩, ⟨slice, hslice⟩, rfl⟩
  · obtain ⟨hlt, rfl⟩ := (Site.wf_global hrow).1 h
    by_cases hname : row = 40
    · exact .inr (.inr (congrArg (Site.mk · 0) hname))
    · exact .inr (.inl ⟨⟨row - 21, by omega⟩, congrArg (Site.mk · 0) (by simp only []; omega)⟩)

/-- A site outside the table is rejected for its row or for its slice. -/
theorem decode_of_not_wf {site : Site} (bytes : List Byte) (h : site.wf = false) :
    decode site bytes = .error (.noSuchRow site.row) ∨ decode site bytes = .error (.noSuchSlice site.slice) := by
  obtain ⟨row, slice⟩ := site
  by_cases hrow : row < 21
  · have hslice : ¬ slice < 6 := by simpa [Site.wf_operator hrow] using h
    exact .inr (by simp [decode, hrow, hslice])
  · have hout : ¬ (row < 41 ∧ slice = 0) := fun hwf => by simp [(Site.wf_global hrow).2 hwf] at h
    by_cases hslice : slice = 0
    · have hname : row ≠ 40 := by omega
      have hone : ¬ row < 40 := by omega
      exact .inl (by simp [decode, hrow, hslice, hname, hone])
    · exact .inr (by simp [decode, hrow, hslice])

/-- At a site that exists, any number of bytes but the row's is rejected for its length (R107). -/
theorem decode_of_length_ne {site : Site} {bytes : List Byte} (h : site.wf = true)
    (hlen : bytes.length ≠ siteLength site) : decode site bytes = .error (.wrongLength bytes.length) := by
  rcases Site.wf_cases h with ⟨row, i, rfl⟩ | ⟨row, rfl⟩ | rfl
  · rw [(Sys2Proof.Laws.SiteInRecord.operator_site row i).2] at hlen
    rcases bytes with _ | ⟨b, _ | ⟨c, bs⟩⟩
    · simp [decode, row.isLt]
    · exact absurd rfl hlen
    · simp [decode, row.isLt]
  · rw [(Sys2Proof.Laws.SiteInRecord.global_site row).2] at hlen
    have hrow := row.isLt
    have hname : 21 + (row : Nat) ≠ 40 := by omega
    have hone : 21 + (row : Nat) < 40 := by omega
    rcases bytes with _ | ⟨b, _ | ⟨c, bs⟩⟩
    · simp [decode, hname, hone]
    · exact absurd rfl hlen
    · simp [decode, hname, hone]
  · have hten : ¬ bytes.length = 10 := hlen
    simp [decode, decodeName, hten]

theorem operator_site_mem_wiredSites (strap : PmsSource) (row : Fin 21) (i : Fin 6) :
    (⟨row, i⟩ : Site) ∈ wiredSites strap := by
  simp [wiredSites, operatorSites]

/-- Every voice-global row is wired under one strap or the other. -/
theorem global_site_mem_wiredSites (row : Fin 20) : ∃ strap, (⟨21 + row, 0⟩ : Site) ∈ wiredSites strap := by
  have hwired : ∀ row : Fin 20, rowWired .b116Hi (21 + row) = true ∨ rowWired .b117Lo (21 + row) = true := by decide
  rcases hwired row with h | h
  · exact ⟨.b116Hi, List.mem_append_right _ (by simp [globalSites, h]; omega)⟩
  · exact ⟨.b117Lo, List.mem_append_right _ (by simp [globalSites, h]; omega)⟩

/-- A site that exists is the site of a register under one strap or the other. -/
theorem exists_siteOf_of_wf {site : Site} (h : site.wf = true) : ∃ strap r, siteOf strap r = site := by
  have hmem : ∃ strap, site ∈ wiredSites strap := by
    rcases Site.wf_cases h with ⟨row, i, rfl⟩ | ⟨row, rfl⟩ | rfl
    · exact ⟨.b116Hi, operator_site_mem_wiredSites _ row i⟩
    · exact global_site_mem_wiredSites row.castSucc
    · exact global_site_mem_wiredSites 19
  obtain ⟨strap, hsite⟩ := hmem
  obtain ⟨r, -, hr⟩ := List.mem_map.1 (wiredSites_eq strap ▸ hsite)
  exact ⟨strap, r, hr⟩

/-- What one byte at a one-byte site decodes to: the instruction of the site's register. -/
theorem decode_byte_siteOf {strap : PmsSource} {r : OutReg} (hlen : siteLength (siteOf strap r) = 1) (b : Byte) :
    decode (siteOf strap r) [b] = .ok (instrOf strap (fun _ => b) r) := by
  have hbytes : siteBytes (fun _ => b) (siteOf strap r) = [b] := by simp [siteBytes, hlen]
  exact hbytes ▸ decode_siteOf strap (fun _ => b) r

/-- What a decode of one byte that answers an instruction did. -/
theorem decode_byte_cases {site : Site} {b : Byte} {i : Instr} (h : decode site [b] = .ok i) :
    ∃ strap r, siteOf strap r = site ∧ siteLength site = 1 ∧ instrOf strap (fun _ => b) r = i := by
  have hwf : site.wf = true := by
    by_contra hwf
    rcases decode_of_not_wf [b] (Bool.eq_false_iff.2 hwf) with he | he <;> cases he.symm.trans h
  have hlen : siteLength site = 1 := by
    by_contra hlen
    cases (decode_of_length_ne (bytes := [b]) hwf (Ne.symm hlen)).symm.trans h
  obtain ⟨strap, r, rfl⟩ := exists_siteOf_of_wf hwf
  cases (decode_byte_siteOf hlen b).symm.trans h
  exact ⟨strap, r, rfl, hlen, rfl⟩

end Sys2Proof.Machine
end

section
/-!
SUPPORT. The fields of a byte: what taking a field out and putting it back keeps, and that an instruction decoded from a
byte carries and encodes exactly the bit ranges of its row (30_encoding.md rules R83 to R92, R107).
-/

namespace Sys2Proof.Machine

theorem bitsOf_all (b : Byte) : bitsOf b 7 0 = b.toNat := by
  simp only [bitsOf]
  omega

/-- Putting a field back where it was taken keeps the bits of the field and clears the others. -/
theorem place_field (b : Byte) (lo w : Nat) : place (field b lo w) lo = b &&& place (BitVec.allOnes w) lo := by
  refine BitVec.eq_of_getLsbD_eq fun k hk => ?_
  by_cases hlo : k < lo
  · simp [place, hlo]
  · have hsub : lo + (k - lo) = k := by omega
    simp [place, field, hk, hlo, hsub, Bool.and_comm]

/-- Two fields side by side keep the bits of both. -/
theorem place_field_or (b : Byte) (lo w lo' w' : Nat) :
    place (field b lo w) lo ||| place (field b lo' w') lo' =
      b &&& (place (BitVec.allOnes w) lo ||| place (BitVec.allOnes w') lo') := by
  rw [place_field, place_field, BitVec.and_or_distrib_left]

/-- The selector and the mode bit of `XCOARSE` share a byte and do not overlap (R87). -/
theorem field_coarse_byte (c : BitVec 7) (m : BitVec 1) :
    field (place c 1 ||| place m 0) 1 7 = c ∧ field (place c 1 ||| place m 0) 0 1 = m := by
  revert c m; decide

/-- The bit ranges of a table row. -/
def rowFields (row : Nat) : List (Nat × Nat) := ((rows[row]?).map Row.fields).getD []

theorem rowFields_of_row {row : Nat} {r : Row} (h : rows[row]? = some r) : rowFields row = r.fields := by
  simp [rowFields, h]

/-- The mask of a row of one bit range is ones there (R107). -/
theorem rowMask_of_rowFields {row lo w : Nat} (hw : 0 < w) (h : rowFields row = [(lo + w - 1, lo)]) :
    rowMask row = place (BitVec.allOnes w) lo := by
  have hmask : rowMask row = BitVec.ofNat 8 (2 ^ (lo + w - 1 + 1) - 2 ^ lo) := by
    rw [rowFields] at h
    rw [rowMask, h]
    exact BitVec.zero_or
  have hpow : 2 ^ (lo + w - 1 + 1) - 2 ^ lo = (2 ^ w - 1) * 2 ^ lo := by
    rw [show lo + w - 1 + 1 = w + lo by omega, pow_add, Nat.sub_mul, one_mul]
  rw [hmask, hpow]
  refine BitVec.eq_of_toNat_eq ?_
  simp [place, Nat.shiftLeft_eq]

/-- The rows of the four quartets read a whole byte at each stage. -/
theorem rowFields_quartets (j : Fin 4) :
    rowFields j = [(7, 0)] ∧ rowFields (4 + j) = [(7, 0)] ∧ rowFields (21 + j) = [(7, 0)] ∧
      rowFields (25 + j) = [(7, 0)] := by
  revert j; decide

/-- Putting a row's one field back gives the byte under the row's mask. -/
theorem place_field_eq_and_rowMask (b : Byte) {row : Nat} (lo w : Nat) (hw : 0 < w)
    (h : rowFields row = [(lo + w - 1, lo)]) : [place (field b lo w) lo] = [b &&& rowMask row] := by
  rw [place_field, rowMask_of_rowFields hw h]

/-- A row that reads a whole byte masks nothing. -/
theorem eq_and_rowMask_of_direct (b : Byte) {row : Nat} (h : rowFields row = [(7, 0)]) : [b] = [b &&& rowMask row] := by
  have hones : place (BitVec.allOnes 8) 0 = BitVec.allOnes 8 := by decide
  rw [rowMask_of_rowFields (lo := 0) (w := 8) (by decide) h, hones, BitVec.and_allOnes]

/-- Where a site's instruction carries one field, a byte that holds just that field decodes to it. -/
theorem decode_place {site : Site} {lo w : Nat} {ins : BitVec w → Instr}
    (hdec : ∀ b, decode site [b] = .ok (ins (field b lo w))) (hfit : lo + w ≤ 8) (v : BitVec w) :
    decode site [place v lo] = .ok (ins v) := by
  rw [hdec, field_place v lo hfit]

@[simp] theorem site_instrOf (strap : PmsSource) (b : Nat → Byte) (r : OutReg) :
    (instrOf strap b r).site = siteOf strap r := by
  cases r with
  | pms => cases strap <;> rfl
  | _ => rfl

theorem ne_name_of_siteLength {strap : PmsSource} {r : OutReg} (h : siteLength (siteOf strap r) = 1) : r ≠ .name := by
  rintro rfl
  exact absurd h (by decide : siteLength ⟨40, 0⟩ ≠ 1)

/-- The instruction of a one-byte site carries its row's bit ranges of the byte. -/
theorem fieldValues_instrOf (strap : PmsSource) (b : Byte) {r : OutReg} (hr : r ≠ .name) :
    fieldValues (instrOf strap (fun _ => b) r) =
      (rowFields (siteOf strap r).row).map fun f => bitsOf b f.1 f.2 := by
  cases r with
  | egr d j =>
    obtain ⟨hfields, -⟩ := rowFields_quartets j
    simp [instrOf, siteOf, fieldValues, hfields, bitsOf_all]
  | egl d j =>
    obtain ⟨-, hfields, -⟩ := rowFields_quartets j
    simp [instrOf, siteOf, fieldValues, hfields, bitsOf_all]
  | pegr j =>
    obtain ⟨-, -, hfields, -⟩ := rowFields_quartets j
    simp [instrOf, siteOf, fieldValues, hfields, bitsOf_all]
  | pegl j =>
    obtain ⟨-, -, -, hfields⟩ := rowFields_quartets j
    simp [instrOf, siteOf, fieldValues, hfields, bitsOf_all]
  | bp | ld | rd | level | fineRaw | lfoSpeed | lfoDelay | lfoPmd | lfoAmd =>
    exact congrArg (fun n => [n]) (bitsOf_all b).symm
  | pms =>
    cases strap
    · exact congrArg (fun n => [n]) (field_eq_bitsOf b 4 3 (by decide))
    · exact congrArg (fun n => [n]) (field_eq_bitsOf b 0 3 (by decide))
  | name => exact absurd rfl hr
  | _ => simp [instrOf, siteOf, fieldValues, field_eq_bitsOf, rowFields, rows, operatorRows, globalRows]

/-- Encoding the instruction of a one-byte site gives the byte under the row's mask. -/
theorem encode_instrOf (strap : PmsSource) (b : Byte) {r : OutReg} (hr : r ≠ .name) :
    encode (instrOf strap (fun _ => b) r) = [b &&& rowMask (siteOf strap r).row] := by
  cases r with
  | egr d j => obtain ⟨hfields, -⟩ := rowFields_quartets j; exact eq_and_rowMask_of_direct b hfields
  | egl d j => obtain ⟨-, hfields, -⟩ := rowFields_quartets j; exact eq_and_rowMask_of_direct b hfields
  | pegr j => obtain ⟨-, -, hfields, -⟩ := rowFields_quartets j; exact eq_and_rowMask_of_direct b hfields
  | pegl j => obtain ⟨-, -, -, hfields⟩ := rowFields_quartets j; exact eq_and_rowMask_of_direct b hfields
  | bp | ld | rd | level | fineRaw | lfoSpeed | lfoDelay | lfoPmd | lfoAmd => exact eq_and_rowMask_of_direct b rfl
  | lc => exact place_field_eq_and_rowMask b 0 2 (by decide) rfl
  | rc => exact place_field_eq_and_rowMask b 2 2 (by decide) rfl
  | tune => exact place_field_eq_and_rowMask b 3 4 (by decide) rfl
  | rs => exact place_field_eq_and_rowMask b 0 3 (by decide) rfl
  | ams => exact place_field_eq_and_rowMask b 0 2 (by decide) rfl
  | kvs => exact place_field_eq_and_rowMask b 2 3 (by decide) rfl
  | mode => exact place_field_eq_and_rowMask b 0 1 (by decide) rfl
  | coarse =>
    have hmask : rowMask 19 = place (BitVec.allOnes 7) 1 ||| place (BitVec.allOnes 1) 0 := by decide
    exact congrArg (fun c => [c]) ((place_field_or b 1 7 0 1).trans (hmask ▸ rfl))
  | alg => exact place_field_eq_and_rowMask b 0 5 (by decide) rfl
  | fb => exact place_field_eq_and_rowMask b 5 3 (by decide) rfl
  | osync => exact place_field_eq_and_rowMask b 3 1 (by decide) rfl
  | lfoSync => exact place_field_eq_and_rowMask b 0 1 (by decide) rfl
  | lfoWave => exact place_field_eq_and_rowMask b 1 3 (by decide) rfl
  | pms =>
    cases strap
    · exact place_field_eq_and_rowMask b 4 3 (by decide) rfl
    · exact place_field_eq_and_rowMask b 0 3 (by decide) rfl
  | name => exact absurd rfl hr

end Sys2Proof.Machine
end

section
/-!
SUPPORT. What a register reads as follows from what it holds.
-/

namespace Sys2Proof.Machine

theorem waveCode_eq_of_rawReg_eq {v w : Voice} (h : rawReg v .lfoWave = rawReg w .lfoWave) :
    v.lfo.waveCode = w.lfo.waveCode :=
  BitVec.eq_of_toNat_eq (RegValue.unsigned.inj h)

/-- Registers that hold the same read the same. -/
theorem readReg_eq_of_rawReg_eq {v w : Voice} {r : OutReg} (h : rawReg v r = rawReg w r) :
    readReg v r = readReg w r := by
  by_cases hr : r = .lfoWave
  · subst hr
    rw [readReg, readReg, waveCode_eq_of_rawReg_eq h]
  · rwa [rawReg_of_ne v hr, rawReg_of_ne w hr] at h

end Sys2Proof.Machine
end

section
/-!
SUPPORT. Records that no output can tell apart: what they agree in, and that they have the same reference decode
(30_encoding.md rule R100).
-/

namespace Sys2Proof.Machine

/-- Two records that differ only where no output can tell (R100). -/
def SameReadRecords (strap : PmsSource) (x y : List Byte) : Prop :=
  ∀ a, a < 128 → sameRead strap a (byteAt x a) (byteAt y a)

/-- A bit range is read at an address when each of its bits is. -/
abbrev BitsRead (strap : PmsSource) (a hi lo : Nat) : Prop :=
  ∀ k < hi - lo + 1, (readMask strap a).getLsbD (lo + k) = true

/-- A bit range that is read under either strap. -/
abbrev BitsAlwaysRead (a hi lo : Nat) : Prop := BitsRead .b116Hi a hi lo ∧ BitsRead .b117Lo a hi lo

theorem BitsAlwaysRead.bitsRead {a hi lo : Nat} (h : BitsAlwaysRead a hi lo) (strap : PmsSource) :
    BitsRead strap a hi lo := by
  cases strap
  exacts [h.1, h.2]

/-- Bytes that agree under a mask agree in every bit range the mask covers. -/
theorem bitsOf_eq_of_and_eq {x y m : Byte} (hi lo : Nat) (h : x &&& m = y &&& m)
    (hm : ∀ k < hi - lo + 1, m.getLsbD (lo + k) = true) : bitsOf x hi lo = bitsOf y hi lo := by
  have hfield : field x lo (hi - lo + 1) = field y lo (hi - lo + 1) := by
    refine BitVec.eq_of_getLsbD_eq fun k hk => ?_
    have hbit : (x &&& m).getLsbD (lo + k) = (y &&& m).getLsbD (lo + k) := by rw [h]
    rw [BitVec.getLsbD_and, BitVec.getLsbD_and, hm k hk, Bool.and_true, Bool.and_true] at hbit
    simp [field, hk, hbit]
  rw [bitsOf, bitsOf, ← field_toNat, ← field_toNat, hfield]

theorem opAddr_lt (d : Fin 6) {f : Nat} (hf : f < 17) : opAddr d f < 102 := by
  rw [opAddr]
  omega

theorem opAddr_mod (d : Fin 6) {f : Nat} (hf : f < 17) : opAddr d f % 17 = f := by
  rw [opAddr]
  omega

/-- Every slice is read alike. -/
theorem readMask_opAddr (strap : PmsSource) (d : Fin 6) {f : Nat} (hf : f < 17) :
    readMask strap (opAddr d f) = readMask strap f := by
  have hlt : f < 102 := by omega
  simp only [readMask, opAddr_lt d hf, hlt, if_true, opAddr_mod d hf, Nat.mod_eq_of_lt hf]

theorem readMask_name (strap : PmsSource) (k : Nat) : readMask strap (118 + k) = BitVec.allOnes 8 := by
  have hslice : ¬ 118 + k < 102 := by omega
  have hsync : 118 + k ≠ 111 := by omega
  have hlfo : 118 + k ≠ 116 := by omega
  have hpms : 118 + k ≠ 117 := by omega
  simp only [readMask, hslice, hsync, hlfo, hpms, if_false]
  rfl

namespace SameReadRecords

variable {strap : PmsSource} {x y : List Byte}

/-- Away from slice byte 15 and from the name, the bits that are read agree. -/
theorem and_readMask_eq (h : SameReadRecords strap x y) {a : Nat} (ha : a < 118) (hsel : ¬ (a < 102 ∧ a % 17 = 15)) :
    byteAt x a &&& readMask strap a = byteAt y a &&& readMask strap a := by
  rcases h a (by omega) with hmask | ⟨hlt, hmod, -⟩ | ⟨hname, -⟩
  · exact hmask
  · exact absurd ⟨hlt, hmod⟩ hsel
  · omega

/-- A bit range that is read, away from slice byte 15 and from the name. -/
theorem bits_eq (h : SameReadRecords strap x y) {a : Nat} (ha : a < 118) (hsel : ¬ (a < 102 ∧ a % 17 = 15))
    (hi lo : Nat) (hm : BitsRead strap a hi lo) : bitsOf (byteAt x a) hi lo = bitsOf (byteAt y a) hi lo :=
  bitsOf_eq_of_and_eq hi lo (h.and_readMask_eq ha hsel) hm

theorem global_bits_eq (h : SameReadRecords strap x y) {a : Nat} (hlo : 102 ≤ a) (hhi : a < 118) (hi lo : Nat)
    (hm : BitsAlwaysRead a hi lo) : bitsOf (byteAt x a) hi lo = bitsOf (byteAt y a) hi lo :=
  h.bits_eq hhi (by omega) hi lo (hm.bitsRead strap)

theorem slice_bits_eq (h : SameReadRecords strap x y) (d : Fin 6) {f : Nat} (hf : f < 17) (hsel : f ≠ 15)
    (hi lo : Nat) (hm : BitsAlwaysRead f hi lo) :
    bitsOf (byteAt x (opAddr d f)) hi lo = bitsOf (byteAt y (opAddr d f)) hi lo := by
  have hlt := opAddr_lt d hf
  have hmod := opAddr_mod d hf
  refine h.bits_eq (by omega) (by omega) hi lo ?_
  rw [BitsRead, readMask_opAddr strap d hf]
  exact hm.bitsRead strap

theorem global_byte_eq (h : SameReadRecords strap x y) {a : Nat} (hlo : 102 ≤ a) (hhi : a < 118)
    (hm : BitsAlwaysRead a 7 0) : (byteAt x a).toNat = (byteAt y a).toNat := by
  simpa only [bitsOf_all] using h.global_bits_eq hlo hhi 7 0 hm

theorem slice_byte_eq (h : SameReadRecords strap x y) (d : Fin 6) {f : Nat} (hf : f < 17) (hsel : f ≠ 15)
    (hm : BitsAlwaysRead f 7 0) : (byteAt x (opAddr d f)).toNat = (byteAt y (opAddr d f)).toNat := by
  simpa only [bitsOf_all] using h.slice_bits_eq d hf hsel 7 0 hm

/-- Slice byte 15: the same byte, or both FIXED with the same two selector bits, so the same mode and coarse value. -/
theorem mode_coarse_eq (h : SameReadRecords strap x y) (d : Fin 6) :
    bitsOf (byteAt x (opAddr d 15)) 0 0 = bitsOf (byteAt y (opAddr d 15)) 0 0 ∧
      coarseRef (byteAt x (opAddr d 15)) = coarseRef (byteAt y (opAddr d 15)) := by
  have hlt := opAddr_lt d (f := 15) (by decide)
  rcases h (opAddr d 15) (by omega) with hmask | ⟨-, -, hx, hy, hsel⟩ | ⟨hname, -⟩
  · have hall : readMask strap (opAddr d 15) = BitVec.allOnes 8 := readMask_opAddr strap d (by decide)
    rw [hall, BitVec.and_allOnes, BitVec.and_allOnes] at hmask
    rw [hmask]
    exact ⟨rfl, rfl⟩
  · rw [hx, hy, coarseRef, coarseRef, hx, hy, hsel]
    exact ⟨rfl, rfl⟩
  · omega

/-- A name byte is the same in both records, or dropped from both names. -/
theorem name_byte_cases (h : SameReadRecords strap x y) {k : Nat} (hk : k < 10) :
    byteAt x (118 + k) = byteAt y (118 + k) ∨ ¬ byteAt x (118 + k) < 128 ∧ ¬ byteAt y (118 + k) < 128 := by
  rcases h (118 + k) (by omega) with hmask | ⟨hlt, -⟩ | ⟨-, hx, hy⟩
  · rw [readMask_name, BitVec.and_allOnes, BitVec.and_allOnes] at hmask
    exact .inl hmask
  · omega
  · exact .inr ⟨Nat.not_lt.2 hx, Nat.not_lt.2 hy⟩

/-- Of the name bytes the same ones are kept. -/
theorem kept_name_bytes_eq (h : SameReadRecords strap x y) {ks : List Nat} (hks : ∀ k ∈ ks, k < 10) :
    (ks.map fun k => byteAt x (118 + k)).filter (· < 128) =
      (ks.map fun k => byteAt y (118 + k)).filter (· < 128) := by
  induction ks with
  | nil => rfl
  | cons k ks ih =>
    have htail := ih fun j hj => hks j (List.mem_cons_of_mem k hj)
    rw [List.map_cons, List.map_cons, List.filter_cons, List.filter_cons, htail]
    rcases h.name_byte_cases (hks k List.mem_cons_self) with heq | ⟨hx, hy⟩
    · rw [heq]
    · simp only [hx, hy, decide_false, Bool.false_eq_true, if_false]

theorem nameRef_eq (h : SameReadRecords strap x y) (ws : List Code) :
    nameRef ws ((List.range 10).map fun k => byteAt x (118 + k)) =
      nameRef ws ((List.range 10).map fun k => byteAt y (118 + k)) := by
  rw [nameRef, nameRef, h.kept_name_bytes_eq fun k hk => List.mem_range.1 hk]

theorem waveCode_eq (h : SameReadRecords strap x y) :
    bitsOf (byteAt x 116) 3 1 = bitsOf (byteAt y 116) 3 1 :=
  h.global_bits_eq (by decide) (by decide) 3 1 (by decide)

/-- Records that no output can tell apart have the same reference decode. -/
theorem specReg_eq {p : Params} (h : SameReadRecords p.pmsSource x y) (r : OutReg) :
    specReg p x r = specReg p y r := by
  cases r with
  | egr d j =>
    have hb := h.slice_byte_eq d (f := j) (by omega) (by omega) (by fin_cases j <;> decide)
    simp only [specReg, hb]
  | egl d j =>
    have hb := h.slice_byte_eq d (f := 4 + j) (by omega) (by omega) (by fin_cases j <;> decide)
    simp only [specReg, hb]
  | bp d => simp only [specReg, h.slice_byte_eq d (f := 8) (by decide) (by decide) (by decide)]
  | ld d => simp only [specReg, h.slice_byte_eq d (f := 9) (by decide) (by decide) (by decide)]
  | rd d => simp only [specReg, h.slice_byte_eq d (f := 10) (by decide) (by decide) (by decide)]
  | lc d => simp only [specReg, h.slice_bits_eq d (f := 11) (by decide) (by decide) 1 0 (by decide)]
  | rc d => simp only [specReg, h.slice_bits_eq d (f := 11) (by decide) (by decide) 3 2 (by decide)]
  | tune d => simp only [specReg, h.slice_bits_eq d (f := 12) (by decide) (by decide) 6 3 (by decide)]
  | rs d => simp only [specReg, h.slice_bits_eq d (f := 12) (by decide) (by decide) 2 0 (by decide)]
  | ams d => simp only [specReg, h.slice_bits_eq d (f := 13) (by decide) (by decide) 1 0 (by decide)]
  | kvs d => simp only [specReg, h.slice_bits_eq d (f := 13) (by decide) (by decide) 4 2 (by decide)]
  | level d => simp only [specReg, h.slice_byte_eq d (f := 14) (by decide) (by decide) (by decide)]
  | mode d =>
    obtain ⟨hmode, -⟩ := h.mode_coarse_eq d
    simp only [specReg, hmode]
  | coarse d =>
    obtain ⟨-, hcoarse⟩ := h.mode_coarse_eq d
    simp only [specReg, hcoarse]
  | fineRaw d => simp only [specReg, h.slice_byte_eq d (f := 16) (by decide) (by decide) (by decide)]
  | pegr j =>
    have hb := h.global_byte_eq (a := 102 + j) (by omega) (by omega) (by fin_cases j <;> decide)
    simp only [specReg, hb]
  | pegl j =>
    have hb := h.global_byte_eq (a := 106 + j) (by omega) (by omega) (by fin_cases j <;> decide)
    simp only [specReg, hb]
  | alg => simp only [specReg, h.global_bits_eq (a := 110) (by decide) (by decide) 4 0 (by decide)]
  | fb => simp only [specReg, h.global_bits_eq (a := 110) (by decide) (by decide) 7 5 (by decide)]
  | osync => simp only [specReg, h.global_bits_eq (a := 111) (by decide) (by decide) 3 3 (by decide)]
  | lfoSpeed => simp only [specReg, h.global_byte_eq (a := 112) (by decide) (by decide) (by decide)]
  | lfoDelay => simp only [specReg, h.global_byte_eq (a := 113) (by decide) (by decide) (by decide)]
  | lfoPmd => simp only [specReg, h.global_byte_eq (a := 114) (by decide) (by decide) (by decide)]
  | lfoAmd => simp only [specReg, h.global_byte_eq (a := 115) (by decide) (by decide) (by decide)]
  | lfoSync => simp only [specReg, h.global_bits_eq (a := 116) (by decide) (by decide) 0 0 (by decide)]
  | lfoWave => simp only [specReg, h.waveCode_eq]
  | pms =>
    cases hs : p.pmsSource with
    | b116Hi =>
      rw [hs] at h
      simp only [specReg, hs, h.bits_eq (a := 116) (by decide) (by decide) 6 4 (by decide)]
    | b117Lo =>
      rw [hs] at h
      simp only [specReg, hs, h.bits_eq (a := 117) (by decide) (by decide) 2 0 (by decide)]
  | name => simp only [specReg, h.nameRef_eq]

theorem isDecodeOf {p : Params} {v : Voice} (h : SameReadRecords p.pmsSource x y) (hv : IsDecodeOf p x v) :
    IsDecodeOf p y v :=
  ⟨fun r => (hv.1 r).trans (h.specReg_eq r), hv.2.trans h.waveCode_eq⟩

end SameReadRecords

end Sys2Proof.Machine
end

section
/-!
PROOFS. The statements of 30_encoding.md.
-/

namespace Sys2Proof.Machine

/-- Settles O1, by cases on the instruction: its site decodes a byte to the fields it holds, and a field put into a
byte is the one taken out again. -/
theorem decodeOfEncodeIsTheInstruction : Obligations.DecodeOfEncodeIsTheInstruction := by
  intro i
  cases i with
  | xegr i j v =>
    fin_cases j
    exacts [decode_operator 0 i v, decode_operator 1 i v, decode_operator 2 i v, decode_operator 3 i v]
  | xegl i j v =>
    fin_cases j
    exacts [decode_operator 4 i v, decode_operator 5 i v, decode_operator 6 i v, decode_operator 7 i v]
  | xbp i v => exact decode_operator 8 i v
  | xld i v => exact decode_operator 9 i v
  | xrd i v => exact decode_operator 10 i v
  | xlc i l => exact decode_place (decode_operator 11 i) (by decide) l
  | xrc i r => exact decode_place (decode_operator 12 i) (by decide) r
  | xtune i t => exact decode_place (decode_operator 13 i) (by decide) t
  | xrs i r => exact decode_place (decode_operator 14 i) (by decide) r
  | xams i a => exact decode_place (decode_operator 15 i) (by decide) a
  | xkvs i k => exact decode_place (decode_operator 16 i) (by decide) k
  | xlvl i v => exact decode_operator 17 i v
  | xmode i m => exact decode_place (decode_operator 18 i) (by decide) m
  | xcoarse i c m =>
    obtain ⟨hc, hm⟩ := field_coarse_byte c m
    exact (decode_operator 19 i _).trans (congrArg₂ (fun f g => Except.ok (Instr.xcoarse i f g)) hc hm)
  | xfine i v => exact decode_operator 20 i v
  | gpegr j v =>
    fin_cases j
    exacts [decode_global 0 v, decode_global 1 v, decode_global 2 v, decode_global 3 v]
  | gpegl j v =>
    fin_cases j
    exacts [decode_global 4 v, decode_global 5 v, decode_global 6 v, decode_global 7 v]
  | galg a => exact decode_place (decode_global 8) (by decide) a
  | gfb f => exact decode_place (decode_global 9) (by decide) f
  | gosync o => exact decode_place (decode_global 10) (by decide) o
  | glspd v => exact decode_global 11 v
  | gldly v => exact decode_global 12 v
  | glpmd v => exact decode_global 13 v
  | glamd v => exact decode_global 14 v
  | glsync b => exact decode_place (decode_global 15) (by decide) b
  | glwave w => exact decode_place (decode_global 16) (by decide) w
  | gpms src p =>
    cases src
    · exact decode_place (decode_global 17) (by decide) p
    · exact decode_place (decode_global 18) (by decide) p
  | gname n => exact decode_name_of_length n.length_toList

/-- Settles O2: a site that exists is a register's, and the instruction there carries its row's bit ranges. -/
theorem everyByteDecodesToItsRowsFields : Obligations.EveryByteDecodesToItsRowsFields := by
  refine ⟨fun site row b hwf hrow hone => ?_, fun bytes hten => ?_⟩
  · obtain ⟨strap, r, rfl⟩ := exists_siteOf_of_wf hwf
    have hlen : siteLength (siteOf strap r) = 1 := by simp [siteLength, hrow, hone]
    refine ⟨_, decode_byte_siteOf hlen b, site_instrOf .., ?_⟩
    rw [fieldValues_instrOf strap b (ne_name_of_siteLength hlen), rowFields_of_row hrow]
  · exact ⟨_, decode_name_of_length hten, rfl, rfl⟩

/-- Settles O3: what decoded is the instruction of the site's register, whose encoding is the byte under the mask. -/
theorem encodeOfDecodeKeepsTheReadBits : Obligations.EncodeOfDecodeKeepsTheReadBits := by
  intro site b i h
  obtain ⟨strap, r, rfl, hlen, rfl⟩ := decode_byte_cases h
  exact encode_instrOf strap b (ne_name_of_siteLength hlen)

/-- Settles O7: an instruction changes nothing but the Voice, and there only its own register. -/
theorem everyExtractorCompletesWithItsFrame : Obligations.EveryExtractorCompletesWithItsFrame := by
  intro i s
  obtain ⟨v, hv⟩ := exec_completes i s
  have hframe (q : OutReg) (hq : q ≠ dest i) : rawReg v q = rawReg s.voice q := exec_frame hv hq
  exact ⟨_, hv, fun q hq => readReg_eq_of_rawReg_eq (hframe q hq),
    fun hwave => waveCode_eq_of_rawReg_eq (hframe .lfoWave hwave.symm),
    rfl, fun _ => rfl, rfl, rfl, rfl, rfl, rfl, rfl⟩

/-- Settles O27: the two records have the same reference decode, and a record has one. -/
theorem unreadBitsHaveNoEffect : Obligations.UnreadBitsHaveNoEffect := by
  intro s t rs rt x y hs ht hparams hx hy hsame
  obtain ⟨v, hv, hdv⟩ := cmdDecode_of_record (s := { s with pending := rs }) hx
  obtain ⟨w, hw, hdw⟩ := cmdDecode_of_record (s := { t with pending := rt }) hy
  have hdy : IsDecodeOf s.params y v := SameReadRecords.isDecodeOf hsame hdv
  have hvw : v = w := hdy.unique (hparams ▸ hdw)
  exact ⟨_, _, (step_cons s _ rs hs).trans hv, (step_cons t _ rt ht).trans hw, hvw⟩

/-- Settles O4: the decoder's two kinds of rejection. -/
theorem decodeRejectsByName : Obligations.DecodeRejectsByName :=
  ⟨fun _ bytes hwf => decode_of_not_wf bytes hwf, fun _ _ hwf hlen => decode_of_length_ne hwf hlen⟩

/-- Settles O5: each sample is the row of the decoder that its site names, at its byte. -/
theorem sampleBytesDecode : Obligations.SampleBytesDecode :=
  ⟨decode_operator 2 5 _, decode_operator 12 0 _, decode_operator 13 4 _, decode_operator 15 4 _,
    decode_operator 16 4 _, decode_operator 19 3 _, decode_global 8 _, decode_global 9 _, decode_global 10 _,
    decode_global 16 _, decode_global 17 _, decode_global 18 _⟩

end Sys2Proof.Machine
end

section
/-!
SUPPORT. The loader's two functions on a buffer, and the host commands that reach it (40_bank_loader.md).
-/

namespace Sys2Proof.Machine

/-! ### `VALIDATE` and `SLICE` -/

theorem validate_iff (buf : List Byte) :
    validate buf = true ↔ buf.length = Config.bankSize ∧ Config.signature <+: buf := by
  rw [validate, Bool.and_eq_true, decide_eq_true_eq, decide_eq_true_eq, List.prefix_iff_eq_take]
  exact and_congr_right fun _ => eq_comm

/-- The signature at the start of a buffer, byte by byte (R111). -/
theorem signature_prefix_iff (buf : List Byte) :
    Config.signature <+: buf ↔
      buf[0]? = some 0xF0 ∧ buf[1]? = some 0x43 ∧ buf[2]? = some 0x00 ∧ buf[3]? = some 0x09 ∧
        buf[4]? = some 0x20 ∧ buf[5]? = some 0x00 := by
  rw [List.prefix_iff_getElem?]
  constructor
  · intro h
    exact ⟨h 0 (by decide), h 1 (by decide), h 2 (by decide), h 3 (by decide), h 4 (by decide), h 5 (by decide)⟩
  · rintro ⟨h0, h1, h2, h3, h4, h5⟩ i hi
    have hlt : i < 6 := hi
    interval_cases i
    exacts [h0, h1, h2, h3, h4, h5]

theorem bankAddr_eq (k a : Nat) : bankAddr k a = 6 + 128 * k + a := rfl

/-- The records of an accepted bank end before its bytes do (R114). -/
theorem bankAddr_lt_bankSize {k a : Nat} (hk : k < Config.nVoices) (ha : a < Config.recSize) :
    bankAddr k a < Config.bankSize := by
  rw [Config.nVoices] at hk
  rw [Config.recSize] at ha
  rw [bankAddr_eq, Config.bankSize]
  omega

theorem sliceBank_eq_none {buf : List Byte} {k : Nat} (hk : Config.nVoices ≤ k) : sliceBank buf k = none :=
  if_neg (Nat.not_lt.2 hk)

/-- `SLICE` of an accepted bank is the bank's own bytes: the default for a missing byte is never taken (R114). -/
theorem sliceBank_of_validate {buf : List Byte} {k : Nat} (hbuf : validate buf = true) (hk : k < Config.nVoices) :
    ∃ record, sliceBank buf k = some record ∧ ∀ a : Fin 128, buf[bankAddr k a]? = some record[a] := by
  obtain ⟨hlen, -⟩ := (validate_iff buf).1 hbuf
  have hslice : sliceBank buf k = some _ := if_pos hk
  obtain ⟨-, hbytes⟩ := (sliceBank_eq_some ..).1 hslice
  refine ⟨_, hslice, fun a => ?_⟩
  have ha : bankAddr k a < buf.length := hlen ▸ bankAddr_lt_bankSize hk a.isLt
  rw [hbytes a, List.getD_eq_getElem _ _ ha, List.getElem?_eq_getElem ha]

/-! ### Loading a record -/

/-- After a `LOAD` the record buffer holds the record given, whatever it held (R191). -/
theorem State.loadRec_record (s : State) (record : Vector Byte 128) :
    (s.loadRec record).rb.record = some record.toList := by
  refine (Memory.readBytes_eq_some ..).2 ⟨record.length_toList, fun k hk => ?_⟩
  have hin : 0 ≤ k ∧ k < 0 + record.toList.length := by
    rw [record.length_toList, Nat.zero_add]
    exact ⟨k.zero_le, hk⟩
  rw [State.loadRec_rb, Memory.read_writeBytes, Nat.zero_add, if_pos hin, Nat.sub_zero]

theorem State.loadRec_read_of_ge (s : State) (record : Vector Byte 128) {a : Nat} (ha : 128 ≤ a) :
    (s.loadRec record).rb.read a = s.rb.read a := by
  have hout : ¬ (0 ≤ a ∧ a < 0 + record.toList.length) := by rw [record.length_toList]; omega
  rw [State.loadRec_rb, Memory.read_writeBytes, if_neg hout]

/-! ### The loader's commands -/

theorem cmdPresentBank_of_validate {buf : List Byte} (s : State) (h : validate buf = true) :
    cmdPresentBank (.bytes buf) s = .next { s.reply .accepted with banks := buf :: s.banks } := if_pos h

theorem cmdPresentBank_of_not_validate {buf : List Byte} (s : State) (h : validate buf = false) :
    cmdPresentBank (.bytes buf) s = .next (s.reply (.rejected .invalidBank)) :=
  if_neg (Bool.eq_false_iff.1 h)

/-- Slot `k + 1` is record `k` (R115). -/
theorem cmdLoadSlot_succ (buf : List Byte) {k : Nat} (hk : k < Config.nVoices) (s : State) :
    cmdLoadSlot buf (k + 1) s = cmdLoadSlice buf k s := by
  have hslot : indexOfSlot (k + 1) = some k := if_pos ⟨k.succ_pos, hk⟩
  rw [cmdLoadSlot, hslot]

theorem cmdLoadSlot_out_of_range (buf : List Byte) {slot : Nat} (h : slot = 0 ∨ Config.nVoices < slot) (s : State) :
    cmdLoadSlot buf slot s = .refused (.sliceOutOfRange slot) := by
  have hslot : indexOfSlot slot = none := if_neg (by omega)
  rw [cmdLoadSlot, hslot]

/-- A slot number is one of the 32 records, or out of range. -/
theorem slot_cases (slot : Nat) :
    (∃ k, k < Config.nVoices ∧ slot = k + 1) ∨ slot = 0 ∨ Config.nVoices < slot := by
  cases slot with
  | zero => exact .inr (.inl rfl)
  | succ k =>
    by_cases hk : k < Config.nVoices
    · exact .inl ⟨k, hk, rfl⟩
    · exact .inr (.inr (Nat.lt_succ_of_le (Nat.not_lt.1 hk)))

/-- A step that loads slice `k`, by index or by slot number, is the one load command (R116). -/
theorem step_load_record {s : State} {rest : List Command} {buf : List Byte} {k : Nat} (hk : k < Config.nVoices)
    (hp : s.pending = .loadSlice buf k :: rest ∨ s.pending = .loadSlot buf (k + 1) :: rest) :
    step s = cmdLoadSlice buf k { s with pending := rest } := by
  rcases hp with hp | hp
  · exact step_cons s _ rest hp
  · exact (step_cons s _ rest hp).trans (cmdLoadSlot_succ buf hk _)

end Sys2Proof.Machine
end

section
/-!
SUPPORT. Why a host command stops, said once (60_exceptions.md rules R240, R247).
-/

namespace Sys2Proof.Machine

/-- The commands that use an output register (R193, R200). -/
def Command.UsesVoice (c : Command) : Prop := (∃ r, c = .read r) ∨ (∃ d, c = .fine d) ∨ ∃ d, c = .fineDec d

/-- The faults of a host command: a value that is not there, or an address that does not exist. -/
inductive CommandFault : Command → State → Fault → Prop
  | incompleteRecord {s : State} (h : s.rb.complete = false) : CommandFault .decode s .unwritten
  | unwrittenByte {s : State} {a : Nat} (h : s.rb.read a = none) : CommandFault (.recRead a) s .unwritten
  | noVoice {s : State} {c : Command} (hc : c.UsesVoice) (h : s.valid = false) : CommandFault c s .unwritten
  | noSuchAddress {s : State} {c : Command} {a : Nat} (hc : c = .recRead a ∨ ∃ v, c = .recWrite a v)
      (h : 128 ≤ a) : CommandFault c s (.noSuchAddress a)

/-- The refusals of a host command: a slice load of a bank not accepted, or with an index or a slot out of range. -/
inductive CommandRefusal : Command → State → Refusal → Prop
  | bankNotAccepted {s : State} {c : Command} {buf : List Byte} {k : Nat}
      (hc : c = .loadSlice buf k ∨ c = .loadSlot buf k) (h : buf ∉ s.banks) : CommandRefusal c s .bankNotAccepted
  | indexOutOfRange {s : State} {buf : List Byte} {k : Nat} (h : 32 ≤ k) :
      CommandRefusal (.loadSlice buf k) s (.sliceOutOfRange k)
  | slotOutOfRange {s : State} {buf : List Byte} {slot : Nat} (h : slot = 0 ∨ 32 < slot) :
      CommandRefusal (.loadSlot buf slot) s (.sliceOutOfRange slot)

/-! ### Command by command -/

/-- A `DECODE` completes over a complete `RB`, and is the fault `Unwritten` over any other: no site of it is
undecodable, and no extractor stops (R192, R240). -/
theorem cmdDecode_next_or_fault (s : State) :
    (∃ t, cmdDecode s = .next t) ∨ s.rb.complete = false ∧ cmdDecode s = .fault .unwritten := by
  cases hc : s.rb.complete with
  | true =>
    obtain ⟨record, hrec⟩ := (Memory.complete_iff_record _).1 hc
    obtain ⟨v, hv, -⟩ := cmdDecode_of_record hrec
    exact .inl ⟨_, hv⟩
  | false => exact .inr ⟨rfl, if_neg (Bool.eq_false_iff.1 hc)⟩

theorem cmdRecWrite_next_or_fault (s : State) (a : Nat) (v : Byte) :
    (∃ t, cmdRecWrite a v s = .next t) ∨ 128 ≤ a ∧ cmdRecWrite a v s = .fault (.noSuchAddress a) := by
  by_cases ha : a < Config.recSize
  · exact .inl ⟨_, if_pos ha⟩
  · exact .inr ⟨Nat.not_lt.1 ha, if_neg ha⟩

theorem cmdRecRead_next_or_fault (s : State) (a : Nat) :
    (∃ t, cmdRecRead a s = .next t) ∨ s.rb.read a = none ∧ cmdRecRead a s = .fault .unwritten ∨
      128 ≤ a ∧ cmdRecRead a s = .fault (.noSuchAddress a) := by
  by_cases ha : a < Config.recSize
  · cases hr : s.rb.read a with
    | none => exact .inr (.inl ⟨rfl, cmdRecRead_unwritten ha hr⟩)
    | some b => exact .inl ⟨_, (cmdRecRead_eq_next ..).2 ⟨ha, b, hr, rfl⟩⟩
  · exact .inr (.inr ⟨Nat.not_lt.1 ha, if_neg ha⟩)

/-- The commands that use an output register stop only where there is no Voice (R193, R200). -/
theorem useOfVoice_next_or_fault {s : State} {c : Command} (hc : c.UsesVoice) :
    (∃ t, runCommand c s = .next t) ∨ s.valid = false ∧ runCommand c s = .fault .unwritten := by
  by_cases hv : s.valid = true
  · left
    rcases hc with ⟨r, rfl⟩ | ⟨d, rfl⟩ | ⟨d, rfl⟩ <;> exact ⟨_, if_pos hv⟩
  · refine .inr ⟨Bool.eq_false_iff.2 hv, ?_⟩
    rcases hc with ⟨r, rfl⟩ | ⟨d, rfl⟩ | ⟨d, rfl⟩ <;> exact if_neg hv

theorem cmdPresentBank_completes (src : BankSource) (s : State) : ∃ t, cmdPresentBank src s = .next t := by
  cases src with
  | unreadable => exact ⟨_, rfl⟩
  | bytes buf =>
    cases h : validate buf with
    | true => exact ⟨_, cmdPresentBank_of_validate s h⟩
    | false => exact ⟨_, cmdPresentBank_of_not_validate s h⟩

/-- A slice load loads a record, or is refused. -/
theorem cmdLoadSlice_next_or_refused (buf : List Byte) (k : Nat) (s : State) :
    (∃ t, cmdLoadSlice buf k s = .next t) ∨ buf ∉ s.banks ∧ cmdLoadSlice buf k s = .refused .bankNotAccepted ∨
      32 ≤ k ∧ cmdLoadSlice buf k s = .refused (.sliceOutOfRange k) := by
  by_cases hm : buf ∈ s.banks
  · by_cases hk : k < Config.nVoices
    · exact .inl ⟨_, (cmdLoadSlice_eq_next ..).2 ⟨hm, _, if_pos hk, rfl⟩⟩
    · have hk : Config.nVoices ≤ k := Nat.not_lt.1 hk
      exact .inr (.inr ⟨hk, (cmdLoadSlice_eq_refused ..).2 (.inr ⟨rfl, hm, hk⟩)⟩)
  · exact .inr (.inl ⟨hm, (cmdLoadSlice_eq_refused ..).2 (.inl ⟨rfl, hm⟩)⟩)

/-- What a host command can come to: a next state, or a stop with its reason. -/
inductive CommandOutcome (c : Command) (s : State) : Host.Outcome State Fault Refusal → Prop
  | next (t : State) : CommandOutcome c s (.next t)
  | fault {f : Fault} (h : CommandFault c s f) : CommandOutcome c s (.fault f)
  | refused {r : Refusal} (h : CommandRefusal c s r) : CommandOutcome c s (.refused r)

theorem CommandOutcome.of_next {c : Command} {s : State} (h : ∃ t, runCommand c s = .next t) :
    CommandOutcome c s (runCommand c s) := by
  obtain ⟨t, ht⟩ := h
  exact ht ▸ .next t

theorem CommandOutcome.of_fault {c : Command} {s : State} {f : Fault} (he : runCommand c s = .fault f)
    (h : CommandFault c s f) : CommandOutcome c s (runCommand c s) := he ▸ .fault h

theorem CommandOutcome.of_refused {c : Command} {s : State} {r : Refusal} (he : runCommand c s = .refused r)
    (h : CommandRefusal c s r) : CommandOutcome c s (runCommand c s) := he ▸ .refused h

theorem useOfVoice_outcome {s : State} {c : Command} (hc : c.UsesVoice) :
    CommandOutcome c s (runCommand c s) := by
  rcases useOfVoice_next_or_fault hc with hnext | ⟨hv, hfault⟩
  · exact .of_next hnext
  · exact .of_fault hfault (.noVoice hc hv)

theorem loadSlice_outcome (buf : List Byte) (k : Nat) (s : State) :
    CommandOutcome (.loadSlice buf k) s (runCommand (.loadSlice buf k) s) := by
  rcases cmdLoadSlice_next_or_refused buf k s with hnext | ⟨hm, href⟩ | ⟨hk, href⟩
  · exact .of_next hnext
  · exact .of_refused href (.bankNotAccepted (.inl rfl) hm)
  · exact .of_refused href (.indexOutOfRange hk)

theorem loadSlot_outcome (buf : List Byte) (slot : Nat) (s : State) :
    CommandOutcome (.loadSlot buf slot) s (runCommand (.loadSlot buf slot) s) := by
  rcases slot_cases slot with ⟨k, hk, rfl⟩ | hout
  · have heq : runCommand (.loadSlot buf (k + 1)) s = cmdLoadSlice buf k s := cmdLoadSlot_succ buf hk s
    rcases cmdLoadSlice_next_or_refused buf k s with hnext | ⟨hm, href⟩ | ⟨hge, -⟩
    · exact .of_next (heq ▸ hnext)
    · exact .of_refused (heq.trans href) (.bankNotAccepted (.inr rfl) hm)
    · exact absurd hk (Nat.not_lt.2 hge)
  · exact .of_refused (cmdLoadSlot_out_of_range buf hout s) (.slotOutOfRange hout)

/-- Every host command completes, or stops for one of the named reasons. -/
theorem runCommand_outcome (c : Command) (s : State) : CommandOutcome c s (runCommand c s) := by
  cases c with
  | reset => exact .next _
  | load record => exact .next _
  | recWrite a v =>
    rcases cmdRecWrite_next_or_fault s a v with hnext | ⟨ha, hfault⟩
    · exact .of_next hnext
    · exact .of_fault hfault (.noSuchAddress (.inr ⟨v, rfl⟩) ha)
  | recRead a =>
    rcases cmdRecRead_next_or_fault s a with hnext | ⟨hr, hfault⟩ | ⟨ha, hfault⟩
    · exact .of_next hnext
    · exact .of_fault hfault (.unwrittenByte hr)
    · exact .of_fault hfault (.noSuchAddress (.inl rfl) ha)
  | decode =>
    rcases cmdDecode_next_or_fault s with hnext | ⟨hc, hfault⟩
    · exact .of_next hnext
    · exact .of_fault hfault (.incompleteRecord hc)
  | read r => exact useOfVoice_outcome (.inl ⟨r, rfl⟩)
  | readStatus => exact .next _
  | readStrap => exact .next _
  | fine d => exact useOfVoice_outcome (.inr (.inl ⟨d, rfl⟩))
  | fineDec d => exact useOfVoice_outcome (.inr (.inr ⟨d, rfl⟩))
  | presentBank src => exact .of_next (cmdPresentBank_completes src s)
  | loadSlice buf k => exact loadSlice_outcome buf k s
  | loadSlot buf slot => exact loadSlot_outcome buf slot s

theorem CommandFault.of_runCommand {c : Command} {s : State} {f : Fault} (h : runCommand c s = .fault f) :
    CommandFault c s f := by
  cases h ▸ runCommand_outcome c s with
  | fault hf => exact hf

theorem CommandRefusal.of_runCommand {c : Command} {s : State} {r : Refusal} (h : runCommand c s = .refused r) :
    CommandRefusal c s r := by
  cases h ▸ runCommand_outcome c s with
  | refused hr => exact hr

/-- Only a step with a command pending stops. -/
theorem step_stops_cases (s : State) (h : ∀ t, step s ≠ .next t) :
    ∃ c rest, s.pending = c :: rest ∧ step s = runCommand c { s with pending := rest } := by
  cases hp : s.pending with
  | nil => exact absurd (by rw [step, performNext, hp]) (h s)
  | cons c rest => exact ⟨c, rest, rfl, step_cons s c rest hp⟩

end Sys2Proof.Machine
end

section
/-!
PROOFS. The statements of 40_bank_loader.md, and where a step stops.
-/

namespace Sys2Proof.Machine

/-- Settles O39: an accepted bank has every byte of its 32 records, and `6 + 128 * k + a` with `a < 128` is division
with remainder by 128. -/
theorem slicesPartitionTheBank : Obligations.SlicesPartitionTheBank := by
  refine ⟨fun buf k hbuf => ⟨fun hk => sliceBank_of_validate hbuf hk, sliceBank_eq_none⟩, fun x => ⟨?cover, ?inside⟩,
    ?distinct⟩
  case cover =>
    rintro ⟨hlo, hhi⟩
    refine ⟨(x - 6) / 128, (x - 6) % 128, by omega, by omega, ?_⟩
    rw [bankAddr_eq]
    omega
  case inside =>
    rintro ⟨k, a, hk, ha, rfl⟩
    rw [bankAddr_eq]
    omega
  case distinct =>
    intro k a k' a' ha ha' h
    rw [bankAddr_eq, bankAddr_eq] at h
    omega

/-- Settles O41: both forms of the load are the one command, which loads the slice or is refused. -/
theorem loadingARecordOfTheBank : Obligations.LoadingARecordOfTheBank := by
  intro s rest buf k
  refine ⟨fun hp => ⟨fun hm hbuf hk => ?_, fun hm hk => ?_⟩, fun hp hk => ⟨fun hm => ?_, fun hm => ?_⟩, fun hp hk => ?_⟩
  · obtain ⟨record, hslice, hbytes⟩ := sliceBank_of_validate hbuf hk
    refine ⟨_, record.toList, ?_, State.loadRec_record s record, fun a ha => ?_,
      fun a ha => State.loadRec_read_of_ge s record ha⟩
    · rw [step_load_record hk hp]
      exact (cmdLoadSlice_eq_next ..).2 ⟨hm, record, hslice, rfl⟩
    · rw [← bankAddr_eq, hbytes ⟨a, ha⟩]
      simp [ha]
  · rw [step_load_record hk hp]
    exact (cmdLoadSlice_eq_refused ..).2 (.inl ⟨rfl, hm⟩)
  · rw [step_cons s _ rest hp]
    exact (cmdLoadSlice_eq_refused ..).2 (.inl ⟨rfl, hm⟩)
  · rw [step_cons s _ rest hp]
    exact (cmdLoadSlice_eq_refused ..).2 (.inr ⟨rfl, hm, hk⟩)
  · rw [step_cons s _ rest hp]
    exact cmdLoadSlot_out_of_range buf hk _

/-- Settles O53: a step that stops is a command that stops, and each reason for that is one the statement names. -/
theorem stepsStopOnlyWhereTheHostErred : Obligations.StepsStopOnlyWhereTheHostErred := by
  refine fun s => ⟨fun f hf => ?_, fun r hr => ?_⟩
  · obtain ⟨c, rest, hp, hstep⟩ := step_stops_cases s (by simp [hf])
    refine ⟨c, rest, hp, ?_⟩
    cases CommandFault.of_runCommand (hstep.symm.trans hf) with
    | incompleteRecord hc => exact .inl ⟨rfl, .inl ⟨rfl, hc⟩⟩
    | unwrittenByte hread => exact .inl ⟨rfl, .inr (.inl ⟨_, rfl, hread⟩)⟩
    | noVoice hc hv => exact .inl ⟨rfl, .inr (.inr ⟨hv, hc⟩)⟩
    | noSuchAddress hc ha => exact .inr ⟨_, ha, rfl, hc⟩
  · obtain ⟨c, rest, hp, hstep⟩ := step_stops_cases s (by simp [hr])
    cases CommandRefusal.of_runCommand (hstep.symm.trans hr) with
    | bankNotAccepted hc hm => exact ⟨c, rest, _, _, hp, .inl ⟨rfl, hm, hc⟩⟩
    | indexOutOfRange hk => exact ⟨_, rest, _, _, hp, .inr ⟨rfl, .inl ⟨rfl, hk⟩⟩⟩
    | slotOutOfRange hk => exact ⟨_, rest, _, _, hp, .inr ⟨rfl, .inr ⟨rfl, hk⟩⟩⟩

/-- Settles O38: an accepted buffer begins with the signature, byte by byte, and nothing after it is looked at. -/
theorem validateAcceptsLengthAndSignature : Obligations.ValidateAcceptsLengthAndSignature := fun buf => by
  rw [validate_iff, signature_prefix_iff, Config.bankSize]

/-- Settles O40, by the three things a host can find where it looks for a bank. -/
theorem bankIsValidatedBeforeThePduRuns : Obligations.BankIsValidatedBeforeThePduRuns := by
  refine fun s rest => ⟨fun buf hp => ⟨fun hbuf => ?accepted, fun hbuf => ?invalid⟩, fun hp => ?unreadable⟩
  case accepted => exact (step_cons s _ rest hp).trans (cmdPresentBank_of_validate _ hbuf)
  case invalid => exact (step_cons s _ rest hp).trans (cmdPresentBank_of_not_validate _ hbuf)
  case unreadable => exact step_cons s _ rest hp

end Sys2Proof.Machine
end

section
/-!
SUPPORT. What one wired extractor does on its own, said once for every register whose site is one byte, and once more
for the 126 operator registers (41_operator_decode.md rule R130); the values of their fields in the spec's arithmetic.
-/

namespace Sys2Proof.Machine

theorem runExtractor_of_fetch {site : Site} {s : State} {i : Instr} (h : fetch s.rb site = .next i) :
    runExtractor site s = exec i s := by
  simp [runExtractor, h]

theorem fetch_of_read {rb : Memory} {site : Site} {b : Byte} {i : Instr} (hlen : siteLength site = 1)
    (hread : rb.read (siteAddr site) = some b) (hdec : decode site [b] = .ok i) : fetch rb site = .next i := by
  have hbytes : rb.readBytes (siteAddr site) (siteLength site) = some [b] := by
    simp [hlen, Memory.readBytes, hread]
  exact (fetch_eq_next ..).2 ⟨[b], hbytes, hdec⟩

/-- At a one-byte site what is left to say is the value: fetching, completion and frame hold of every register. -/
theorem extracts_of_value {strap : PmsSource} {r : OutReg} {a : Nat} {value : Byte → RegValue}
    (ha : siteAddr (siteOf strap r) = a) (hlen : siteLength (siteOf strap r) = 1)
    (hvalue : ∀ s t b, exec (instrOf strap (fun _ => b) r) s = .next t → readReg t.voice r = value b) :
    Extracts a (siteOf strap r) (fun b => instrOf strap (fun _ => b) r) r value := by
  intro s b hb
  obtain ⟨t, ht, honly⟩ := everyExtractorCompletesWithItsFrame (instrOf strap (fun _ => b) r) s
  have hfetch := fetch_of_read hlen (ha ▸ hb) (decode_byte_siteOf hlen b)
  rw [dest_instrOf] at honly
  exact ⟨t, hfetch, ht, (runExtractor_of_fetch hfetch).trans ht, hvalue s t b ht, honly⟩

/-! ### Operator registers -/

theorem eq_displayIndex {i d : Fin 6} (h : (d : Nat) = 5 - i) : i = displayIndex d :=
  Fin.ext (by simp only [displayIndex]; omega)

theorem siteLength_of_bank (strap : PmsSource) {r : OutReg} {d : Fin 6} (h : r.bank = some d) :
    siteLength (siteOf strap r) = 1 := by
  cases r with
  | egr e j => fin_cases j <;> rfl
  | egl e j => fin_cases j <;> rfl
  | bp | ld | rd | lc | rc | tune | rs | ams | kvs | level | mode | coarse | fineRaw => rfl
  | _ => cases h

/-- The instructions of an operator bank belong to either strap. -/
theorem instrOf_wf_of_bank (strap strap' : PmsSource) (b : Nat → Byte) {r : OutReg} {d : Fin 6}
    (h : r.bank = some d) : (instrOf strap b r).wf strap' = true := by
  cases r with
  | pms => cases h
  | _ => rfl

/-- After its instruction an operator register reads as the instruction's value. -/
theorem readReg_of_exec {i : Instr} {s t : State} (h : exec i s = .next t) {r : OutReg} (hdest : dest i = r)
    {d : Fin 6} (hbank : r.bank = some d) (hwf : i.wf s.params.pmsSource = true) :
    readReg t.voice r = writtenValue s.params i := by
  subst hdest
  rw [← rawReg_of_ne _ (OutReg.ne_lfoWave_of_bank hbank), exec_writes_dest h hwf]

/-- An operator register's extractor is right when its instruction's value is; no operator row depends on the strap. -/
theorem extracts_of_bank {r : OutReg} {d : Fin 6} (hbank : r.bank = some d) {a : Nat} {value : Byte → RegValue}
    (ha : siteAddr (siteOf .b116Hi r) = a)
    (hvalue : ∀ p b, writtenValue p (instrOf .b116Hi (fun _ => b) r) = value b) :
    Extracts a (siteOf .b116Hi r) (fun b => instrOf .b116Hi (fun _ => b) r) r value := by
  refine extracts_of_value ha (siteLength_of_bank _ hbank) fun s t b h => ?_
  rw [readReg_of_exec h (dest_instrOf ..) hbank (instrOf_wf_of_bank _ _ _ hbank), hvalue]

/-- The four stages of a quartet are at consecutive offsets of the slice (R63, R88). -/
theorem siteAddr_quartets (i : Fin 6) (j : Fin 4) :
    siteAddr ⟨j, i⟩ = 17 * i + j ∧ siteAddr ⟨4 + j, i⟩ = 17 * i + 4 + j := by
  revert i j; decide

/-! ### Values -/

theorem writtenValue_xbp (p : Params) (i : Fin 6) (b : Byte) :
    writtenValue p (.xbp i b) = if b.toNat ≤ 99 then .breakPoint false b.toNat else .breakPoint true 0 := by
  rw [writtenValue, bpNaOf_eq, bpIdxOf_toNat]
  split <;> simp_all

/-- The note shown for a break point is the one its register reads as, or the sentinel's text (R28, R225). -/
theorem bpText_of_readReg {v : Voice} {d : Fin 6} {na : Bool} {idx : Nat}
    (h : readReg v (.bp d) = .breakPoint na idx) :
    bpText v.op[d] = if na then "N/A".toList else (Config.note idx).toList := by
  obtain ⟨hna, hidx⟩ := RegValue.breakPoint.inj h
  rw [bpText, hna, hidx]
  rfl

/-- `COARSE` of a byte in the spec's arithmetic (R147). -/
theorem coarseRef_eq (b : Byte) :
    coarseRef b =
      if b.toNat % 2 = 0 then (if b.toNat / 2 = 0 then 1 / 2 else ((b.toNat / 2 : Nat) : Rat))
      else if b.toNat / 2 % 4 = 0 then 1 else if b.toNat / 2 % 4 = 1 then 10
      else if b.toNat / 2 % 4 = 2 then 100 else 1000 := by
  have hmode : bitsOf b 0 0 = b.toNat % 2 := by simp [bitsOf]
  have hsel : bitsOf b 7 1 = b.toNat / 2 := by simp only [bitsOf]; omega
  have hlow : bitsOf b 2 1 = b.toNat / 2 % 4 := rfl
  have hpow : ∀ k < 4, (10 : Rat) ^ k = if k = 0 then 1 else if k = 1 then 10 else if k = 2 then 100 else 1000 := by
    intro k hk
    interval_cases k <;> norm_num
  rw [coarseRef, hmode, hsel, hlow, hpow _ (Nat.mod_lt _ (by decide))]

end Sys2Proof.Machine
end

section
/-!
SUPPORT. An operator bank of a reference decode reads its own slice of the record and nothing else (R149, R150).
-/

namespace Sys2Proof.Machine

/-- The reference values of a bank's registers are those of its slice, whatever the rest of the record and the
parameters. -/
theorem specReg_eq_of_slice_eq (p q : Params) {x y : List Byte} {d : Fin 6}
    (h : ∀ f, f < 17 → byteAt x (opAddr d f) = byteAt y (opAddr d f)) {r : OutReg} (hr : r.bank = some d) :
    specReg p x r = specReg q y r := by
  cases r with
  | egr e j =>
    cases hr
    simp only [specReg, h j (by omega)]
  | egl e j =>
    cases hr
    simp only [specReg, h (4 + j) (by omega)]
  | bp | ld | rd | lc | rc | tune | rs | ams | kvs | level | mode | coarse | fineRaw =>
    cases hr
    simp [specReg, h]
  | _ => cases hr

theorem IsDecodeOf.op_eq {p q : Params} {x y : List Byte} {v w : Voice} {d : Fin 6} (hv : IsDecodeOf p x v)
    (hw : IsDecodeOf q y w) (h : ∀ f, f < 17 → byteAt x (opAddr d f) = byteAt y (opAddr d f)) :
    v.op[d] = w.op[d] := by
  refine OpBank.ext_reg d fun r hr => ?_
  calc v.op[d].reg r = readReg v r := (readReg_of_bank v hr).symm
    _ = specReg p x r := hv.1 r
    _ = specReg q y r := specReg_eq_of_slice_eq p q h hr
    _ = readReg w r := (hw.1 r).symm
    _ = w.op[d].reg r := readReg_of_bank w hr

end Sys2Proof.Machine
end

section
/-!
PROOFS. The statements of 41_operator_decode.md.
-/

namespace Sys2Proof.Machine

/-- Settles O28: both Voices are reference decodes, whose banks are determined by their slices. -/
theorem operatorDependsOnlyOnItsSlice : Obligations.OperatorDependsOnlyOnItsSlice := by
  intro d s t rs rt x y hs ht hx hy hslice
  obtain ⟨v, hv, hdv⟩ := cmdDecode_of_record (s := { s with pending := rs }) hx
  obtain ⟨w, hw, hdw⟩ := cmdDecode_of_record (s := { t with pending := rt }) hy
  exact ⟨_, _, (step_cons s _ rs hs).trans hv, (step_cons t _ rt ht).trans hw, hdv.op_eq hdw hslice⟩

/-- Settles O8: the instruction's value is the byte, at each stage of both quartets. -/
theorem envelopeExtractorsCopyTheirByte : Obligations.EnvelopeExtractorsCopyTheirByte := by
  intro i d j h
  obtain rfl := eq_displayIndex h
  obtain ⟨hrate, hlevel⟩ := siteAddr_quartets (displayIndex d) j
  exact ⟨extracts_of_bank (r := .egr d j) rfl hrate fun _ _ => rfl,
    extracts_of_bank (r := .egl d j) rfl hlevel fun _ _ => rfl⟩

/-- Settles O9: what `BP` reads as decides the note shown. -/
theorem breakPointIsIndexOrSentinel : Obligations.BreakPointIsIndexOrSentinel := by
  intro i d h
  obtain rfl := eq_displayIndex h
  refine ⟨extracts_of_bank (r := .bp d) rfl rfl fun p b => writtenValue_xbp p _ b, fun s t b hexec => ?_⟩
  have hread : readReg t.voice (.bp d) = _ :=
    readReg_of_exec hexec (congrArg _ (displayIndex_displayIndex d)) rfl rfl
  rw [writtenValue_xbp] at hread
  by_cases hb : b.toNat ≤ 99
  · rw [if_pos hb] at hread ⊢
    exact bpText_of_readReg hread
  · rw [if_neg hb] at hread ⊢
    exact bpText_of_readReg hread

/-- Settles O10: the value of each of the four instructions is its byte. -/
theorem directOperatorExtractorsCopyTheirByte : Obligations.DirectOperatorExtractorsCopyTheirByte := by
  intro i d h
  obtain rfl := eq_displayIndex h
  exact ⟨extracts_of_bank (r := .ld d) rfl rfl fun _ _ => rfl, extracts_of_bank (r := .rd d) rfl rfl fun _ _ => rfl,
    extracts_of_bank (r := .level d) rfl rfl fun _ _ => rfl,
    extracts_of_bank (r := .fineRaw d) rfl rfl fun _ _ => rfl⟩

/-- Settles O11: the values are the two fields, and the curve shown is the entry of the register's value. -/
theorem curveExtractorsTakeTheirTwoBits : Obligations.CurveExtractorsTakeTheirTwoBits := by
  intro i d h
  obtain rfl := eq_displayIndex h
  refine ⟨extracts_of_bank (r := .lc d) rfl rfl fun p b => ?left,
    extracts_of_bank (r := .rc d) rfl rfl fun p b => ?right,
    fun s t c p up => ⟨fun hexec => ?leftShown, fun hexec => ?rightShown⟩⟩
  case left => simp [instrOf, writtenValue, field_toNat]
  case right => simp [instrOf, writtenValue, field_toNat]
  case leftShown =>
    have hlc : t.voice.op[d].lc.toNat = c.toNat := RegValue.unsigned.inj
      (readReg_of_exec hexec (congrArg OutReg.lc (displayIndex_displayIndex d)) rfl rfl)
    simp only [cellText, RenderParams.withSpecTables, hlc, and_self]
  case rightShown =>
    have hrc : t.voice.op[d].rc.toNat = c.toNat := RegValue.unsigned.inj
      (readReg_of_exec hexec (congrArg OutReg.rc (displayIndex_displayIndex d)) rfl rfl)
    simp only [cellText, RenderParams.withSpecTables, hrc, and_self]

/-- Settles O12: the values are the two fields, `TUNE`'s less 7. -/
theorem tuneAndRateScaleExtractors : Obligations.TuneAndRateScaleExtractors := by
  intro i d h
  obtain rfl := eq_displayIndex h
  refine ⟨extracts_of_bank (r := .tune d) rfl rfl fun p b => ?tune,
    extracts_of_bank (r := .rs d) rfl rfl fun p b => ?rs⟩
  case tune => simp [instrOf, writtenValue, tuneOf_toInt, field_toNat]
  case rs => simp [instrOf, writtenValue, field_toNat]

/-- Settles O13: the values are the two fields. -/
theorem sensitivityExtractors : Obligations.SensitivityExtractors := by
  intro i d h
  obtain rfl := eq_displayIndex h
  refine ⟨extracts_of_bank (r := .ams d) rfl rfl fun p b => ?ams,
    extracts_of_bank (r := .kvs d) rfl rfl fun p b => ?kvs⟩
  case ams => simp [instrOf, writtenValue, field_toNat]
  case kvs => simp [instrOf, writtenValue, field_toNat]

/-- Settles O14: the mode is its field, and selector and mode resolve to the byte's coarse value. -/
theorem modeAndCoarseExtractors : Obligations.ModeAndCoarseExtractors := by
  intro i d h
  obtain rfl := eq_displayIndex h
  refine ⟨extracts_of_bank (r := .mode d) rfl rfl fun p b => ?mode,
    extracts_of_bank (r := .coarse d) rfl rfl fun p b => ?coarse⟩
  case mode => simp [instrOf, writtenValue, field_toNat]
  case coarse => exact congrArg RegValue.rational ((coarseX2Of_field b).trans (coarseRef_eq b))

end Sys2Proof.Machine
end

section
/-!
SUPPORT. What one wired voice-global extractor does on its own (42_global_decode.md rule R170), and the values of its
field in the spec's arithmetic.
-/

namespace Sys2Proof.Machine

/-- A fetched instruction of the strap completes, gives its register its value, and changes nothing else. -/
theorem fetched_extractor_completes {site : Site} {s : State} {i : Instr} (hfetch : fetch s.rb site = .next i)
    (hwf : i.wf s.params.pmsSource = true) :
    ∃ t, exec i s = .next t ∧ runExtractor site s = .next t ∧
      rawReg t.voice (dest i) = writtenValue s.params i ∧ OnlyChanges (dest i) s t := by
  obtain ⟨t, ht, honly⟩ := everyExtractorCompletesWithItsFrame i s
  exact ⟨t, ht, (runExtractor_of_fetch hfetch).trans ht, exec_writes_dest ht hwf, honly⟩

/-- Only `GPMS` belongs to one strap (R183). -/
theorem instrOf_wf_of_ne_pms (strap strap' : PmsSource) (b : Nat → Byte) {r : OutReg} (h : r ≠ .pms) :
    (instrOf strap b r).wf strap' = true := by
  cases r with
  | pms => exact absurd rfl h
  | _ => rfl

/-- A voice-global register whose row both straps have is extracted right when its instruction's value is. -/
theorem extracts_of_global {r : OutReg} (hpms : r ≠ .pms) (hwave : r ≠ .lfoWave) {a : Nat}
    {value : Byte → RegValue}
    (ha : siteAddr (siteOf .b116Hi r) = a) (hlen : siteLength (siteOf .b116Hi r) = 1)
    (hvalue : ∀ p b, writtenValue p (instrOf .b116Hi (fun _ => b) r) = value b) :
    Extracts a (siteOf .b116Hi r) (fun b => instrOf .b116Hi (fun _ => b) r) r value := by
  refine extracts_of_value ha hlen fun s t b h => ?_
  have hraw := exec_writes_dest h (instrOf_wf_of_ne_pms _ _ _ hpms)
  rw [dest_instrOf, hvalue] at hraw
  rw [← rawReg_of_ne _ hwave, hraw]

/-- The four stages of each pitch-envelope quartet are consecutive record bytes (R171, R172). -/
theorem siteAddr_pitch_quartets (j : Fin 4) :
    siteAddr ⟨21 + j, 0⟩ = 102 + j ∧ siteAddr ⟨25 + j, 0⟩ = 106 + j := by
  revert j; decide

theorem siteLength_pitch_quartets (j : Fin 4) : siteLength ⟨21 + j, 0⟩ = 1 ∧ siteLength ⟨25 + j, 0⟩ = 1 := by
  revert j; decide

/-! ### `GLWAVE` -/

/-- `GLWAVE` keeps the raw code (R182). -/
theorem waveCode_of_exec_glwave {w : BitVec 3} {s t : State} (h : exec (.glwave w) s = .next t) :
    t.voice.lfo.waveCode = w :=
  BitVec.eq_of_toNat_eq (RegValue.unsigned.inj (exec_writes_dest h rfl))

theorem waveOf_of_le {w : BitVec 3} (h : w.toNat ≤ 5) : waveOf w = some w.toNat := by
  simp [waveOf, waveNa, Nat.not_lt.2 h]

theorem waveOf_of_gt {w : BitVec 3} (h : 5 < w.toNat) : waveOf w = none := by
  simp [waveOf, waveNa, h]

/-! ### `GPMS` -/

/-- The `GPMS` row of the instance's strap gives `PMS` the three bits of its byte from `lo` on. -/
theorem gpms_extractor_completes {s : State} {src : PmsSource} {b : Byte} {lo : Nat}
    (hstrap : s.params.pmsSource = src) (hread : s.rb.read (siteAddr (siteOf src .pms)) = some b)
    (hins : instrOf src (fun _ => b) .pms = .gpms src (field b lo 3)) :
    ∃ t, fetch s.rb (siteOf src .pms) = .next (.gpms src (field b lo 3)) ∧
      exec (.gpms src (field b lo 3)) s = .next t ∧ runExtractor (siteOf src .pms) s = .next t ∧
      readReg t.voice .pms = .unsigned (b.toNat / 2 ^ lo % 8) ∧ OnlyChanges .pms s t := by
  have hlen : siteLength (siteOf src .pms) = 1 := by cases src <;> rfl
  have hfetch : fetch s.rb (siteOf src .pms) = .next (.gpms src (field b lo 3)) :=
    hins ▸ fetch_of_read hlen hread (decode_byte_siteOf hlen b)
  have hwf : (Instr.gpms src (field b lo 3)).wf s.params.pmsSource = true := by simp [Instr.wf, hstrap]
  obtain ⟨t, hexec, hrun, hvalue, honly⟩ := fetched_extractor_completes hfetch hwf
  exact ⟨t, hfetch, hexec, hrun, hvalue.trans (congrArg RegValue.unsigned (field_toNat b lo 3)), honly⟩

/-! ### `GNAME` -/

/-- The ten name bytes are fetched as they stand (R184). -/
theorem fetch_name {rb : Memory} {n : Vector Byte 10} (h : ∀ k : Fin 10, rb.read (118 + k) = some n[k]) :
    fetch rb ⟨40, 0⟩ = .next (.gname n) := by
  have hbytes : rb.readBytes 118 10 = some n.toList :=
    (Memory.readBytes_eq_some ..).2 ⟨n.length_toList, fun k hk => by simpa [hk] using h ⟨k, hk⟩⟩
  exact (fetch_eq_next ..).2 ⟨n.toList, hbytes, decode_name_of_length n.length_toList⟩

theorem nameRef_length_le (ws : List Code) (n : Vector Byte 10) : (nameRef ws n.toList).length ≤ 10 :=
  nameOf_eq_nameRef ws n.toList ▸ nameOf_length_le ws n

end Sys2Proof.Machine
end

section
/-!
PROOFS. The statements of 42_global_decode.md.
-/

namespace Sys2Proof.Machine

/-- Settles O21: the ten bytes are fetched as they stand, and `GNAME`'s value is the reference name of them. -/
theorem nameIsKeptThenTrimmed : Obligations.NameIsKeptThenTrimmed := by
  intro s n hbytes
  have hfetch := fetch_name hbytes
  obtain ⟨t, hexec, hrun, hvalue, honly⟩ := fetched_extractor_completes hfetch rfl
  exact ⟨t, hfetch, hexec, hrun, nameRef_length_le _ n, hvalue.trans (writtenValue_gname s.params n), honly⟩

/-- Settles O23: a `DECODE` over a record leaves its reference decode, and one that answers has met a record. -/
theorem decodeGivesTheReferenceVoice : Obligations.DecodeGivesTheReferenceVoice := by
  intro s rest hp
  rw [step_cons s _ rest hp]
  refine ⟨fun record hrec => ?complete, fun hnone => ?unwritten⟩
  case complete =>
    obtain ⟨v, hv, hregs, hwave⟩ := cmdDecode_of_record (s := { s with pending := rest }) hrec
    exact ⟨_, hv, rfl, hregs, hwave, rfl, rfl, rfl, rfl, rfl, rfl⟩
  case unwritten =>
    rcases cmdDecode_next_or_fault { s with pending := rest } with ⟨t, ht⟩ | ⟨-, hfault⟩
    · obtain ⟨record, -, hrec, -⟩ := cmdDecode_cases ht
      cases hrec.symm.trans hnone
    · exact hfault

/-- Settles O26: both `DECODE`s leave the reference decode of the same record, and a record has one. -/
theorem secondDecodeChangesNothing : Obligations.SecondDecodeChangesNothing := by
  intro s rest hp hc
  obtain ⟨record, hrec⟩ := (Memory.complete_iff_record s.rb).1 hc
  obtain ⟨v, hv, hdv⟩ := cmdDecode_of_record (s := { s with pending := .decode :: rest }) hrec
  obtain ⟨w, hw, hdw⟩ := cmdDecode_of_record (s := { s with pending := rest, voice := v, valid := true }) hrec
  have hwv : w = v := hdw.unique hdv
  subst hwv
  exact ⟨_, (step_cons s _ _ hp).trans hv, (step_cons _ .decode rest rfl).trans hw⟩

/-- Settles O31: reading after `LOAD`'s run of 128 writes. -/
theorem loadReplacesTheRecordOnly : Obligations.LoadReplacesTheRecordOnly :=
  fun s record rest hp => ⟨_, step_cons s _ rest hp, State.loadRec_record _ record,
    fun _ ha => State.loadRec_read_of_ge s record ha⟩

/-- Settles O15: the value is the byte, at each stage of both quartets. -/
theorem pitchEnvelopeExtractorsCopyTheirByte : Obligations.PitchEnvelopeExtractorsCopyTheirByte := by
  intro j
  obtain ⟨hrate, hlevel⟩ := siteAddr_pitch_quartets j
  obtain ⟨hrateLen, hlevelLen⟩ := siteLength_pitch_quartets j
  exact ⟨extracts_of_global (r := .pegr j) nofun nofun hrate hrateLen fun _ _ => rfl,
    extracts_of_global (r := .pegl j) nofun nofun hlevel hlevelLen fun _ _ => rfl⟩

/-- Settles O16: `ALG` is its field plus 1, and the three top bits of a byte are its quotient by 32. -/
theorem algorithmAndFeedbackExtractors : Obligations.AlgorithmAndFeedbackExtractors := by
  refine ⟨extracts_of_global (r := .alg) nofun nofun rfl rfl fun p b => ?alg,
    extracts_of_global (r := .fb) nofun nofun rfl rfl fun p b => ?fb⟩
  case alg => simp [instrOf, writtenValue, algOf_toNat, field_toNat]
  case fb =>
    have hlt : b.toNat / 32 < 8 := by omega
    simp [instrOf, writtenValue, field_toNat, Nat.mod_eq_of_lt hlt]

/-- Settles O17: the values are the two one-bit fields. -/
theorem syncExtractorsTakeOneBit : Obligations.SyncExtractorsTakeOneBit := by
  refine ⟨extracts_of_global (r := .osync) nofun nofun rfl rfl fun p b => ?osync,
    extracts_of_global (r := .lfoSync) nofun nofun rfl rfl fun p b => ?lfoSync⟩
  case osync => simp [instrOf, writtenValue, field_toNat]
  case lfoSync => simp [instrOf, writtenValue, field_toNat]

/-- Settles O18: the value of each of the four instructions is its byte. -/
theorem lfoExtractorsCopyTheirByte : Obligations.LfoExtractorsCopyTheirByte :=
  ⟨extracts_of_global (r := .lfoSpeed) nofun nofun rfl rfl fun _ _ => rfl,
    extracts_of_global (r := .lfoDelay) nofun nofun rfl rfl fun _ _ => rfl,
    extracts_of_global (r := .lfoPmd) nofun nofun rfl rfl fun _ _ => rfl,
    extracts_of_global (r := .lfoAmd) nofun nofun rfl rfl fun _ _ => rfl⟩

/-- Settles O19: the raw code is kept, and decides what the register reads as and what is shown. -/
theorem waveIsCodeOrSentinel : Obligations.WaveIsCodeOrSentinel := by
  refine ⟨extracts_of_value (strap := .b116Hi) (r := .lfoWave) rfl rfl fun s t b h => ?value,
    fun s t w p h => ?shown⟩
  case value =>
    refine readReg_lfoWave ?_
    rw [waveCode_of_exec_glwave h]
    exact field_toNat b 1 3
  case shown =>
    rw [waveCode_of_exec_glwave h]
    refine ⟨rfl, fun hle => ?_, fun hgt => ?_⟩
    · rw [waveShown, waveShown, waveOf_of_le hle]
      exact ⟨rfl, rfl⟩
    · rw [waveShown, waveOf_of_gt hgt]

/-- Settles O20: the row of the strap takes its three bits, and the other row writes nothing. -/
theorem pitchModSensitivityFollowsTheStrap : Obligations.PitchModSensitivityFollowsTheStrap := by
  refine ⟨fun s b hstrap hread => gpms_extractor_completes hstrap hread rfl, fun s b hstrap hread => ?low,
    fun s src p hne => exec_of_not_wf (by simpa [Instr.wf] using hne.symm)⟩
  case low =>
    have hextract := gpms_extractor_completes (lo := 0) hstrap hread rfl
    rwa [pow_zero, Nat.div_one] at hextract

/-- Settles O33: `READ` depends on `VALID`, `READ STATUS` on nothing. -/
theorem readAnswersTheRegisterOrFaults : Obligations.ReadAnswersTheRegisterOrFaults := by
  refine fun s rest => ⟨fun r hp => ⟨fun hvalid => ?answers, fun hvalid => ?faults⟩, fun hp => ?status⟩
  case answers => exact (step_cons s _ rest hp).trans ((cmdRead_eq_next ..).2 ⟨hvalid, rfl⟩)
  case faults => exact (step_cons s _ rest hp).trans (if_neg (Bool.eq_false_iff.1 hvalid))
  case status => exact step_cons s _ rest hp

end Sys2Proof.Machine
end

section
/-!
SUPPORT. Rounding (43_tuning_transforms.md rules R205, R206): what `roundNearest` gives and when a rational is a tie,
said once; later proofs do not unfold either.
-/

namespace Sys2Proof.Machine

/-- The lower neighbour of a rational that is not negative. -/
theorem exists_floor_eq {x : Rat} (hx : 0 ≤ x) : ∃ m : Nat, x.floor = m ∧ (m : Rat) ≤ x ∧ x < m + 1 := by
  obtain ⟨m, hm⟩ := Int.eq_ofNat_of_zero_le (Rat.le_floor_iff.2 (by exact_mod_cast hx : ((0 : Int) : Rat) ≤ x))
  have hle := Rat.floor_le x
  have hlt := Rat.lt_floor_add_one x
  rw [hm] at hle hlt
  exact ⟨m, hm, by exact_mod_cast hle, by exact_mod_cast hlt⟩

theorem isTie_iff_of_floor {x : Rat} {m : Nat} (h : x.floor = m) : isTie x = true ↔ x = m + 1 / 2 := by
  rw [isTie, h, decide_eq_true_iff, Int.cast_natCast, sub_eq_iff_eq_add']

/-- Rounding by the position of `x` between its lower neighbour `m` and `m + 1` (R205). -/
theorem roundNearest_of_floor {x : Rat} {m : Nat} (h : x.floor = m) (up : Bool) :
    roundNearest up x =
      if x < m + 1 / 2 then m else if (m : Rat) + 1 / 2 < x then m + 1 else if up then m + 1 else m := by
  simp only [roundNearest, h, Int.toNat_natCast, Int.cast_natCast, sub_lt_iff_lt_add', lt_sub_iff_add_lt']

theorem isTie_iff {x : Rat} (hx : 0 ≤ x) : isTie x = true ↔ ∃ m : Nat, x = m + 1 / 2 := by
  obtain ⟨m, hm, hle, hlt⟩ := exists_floor_eq hx
  rw [isTie_iff_of_floor hm]
  refine ⟨fun h => ⟨m, h⟩, ?_⟩
  rintro ⟨k, rfl⟩
  have hmk : (m : Rat) < k + 1 := by linarith
  have hkm : (k : Rat) < m + 1 := by linarith
  have : k = m := by
    norm_cast at hmk hkm
    omega
  rw [this]

/-- Away from a tie the choice does not matter (R205). -/
theorem roundNearest_of_not_isTie {x : Rat} (hx : 0 ≤ x) (h : isTie x = false) (up up' : Bool) :
    roundNearest up x = roundNearest up' x := by
  obtain ⟨m, hm, -⟩ := exists_floor_eq hx
  have hne : x ≠ m + 1 / 2 := fun he => by simp [(isTie_iff_of_floor hm).2 he] at h
  rw [roundNearest_of_floor hm, roundNearest_of_floor hm]
  rcases hne.lt_or_gt with hlt | hgt
  · simp only [if_pos hlt]
  · simp only [if_neg hgt.not_gt, if_pos hgt]

/-- At a tie the choices are the two neighbours (R206). -/
theorem roundNearest_of_isTie {x : Rat} (hx : 0 ≤ x) (h : isTie x = true) :
    ∃ m : Nat, x = m + 1 / 2 ∧ roundNearest true x = m + 1 ∧ roundNearest false x = m := by
  obtain ⟨m, hm, -⟩ := exists_floor_eq hx
  have he := (isTie_iff_of_floor hm).1 h
  have hround (up : Bool) : roundNearest up x = if up then m + 1 else m := by
    rw [roundNearest_of_floor hm, if_neg he.not_lt, if_neg he.symm.not_lt]
  exact ⟨m, he, hround true, hround false⟩

/-- Whichever way ties go, the rounded integer is at most one half away. -/
theorem roundNearest_within_half {x : Rat} (hx : 0 ≤ x) (up : Bool) :
    (roundNearest up x : Rat) - x ≤ 1 / 2 ∧ x - (roundNearest up x : Rat) ≤ 1 / 2 := by
  obtain ⟨m, hm, hle, hlt⟩ := exists_floor_eq hx
  rw [roundNearest_of_floor hm]
  split
  · exact ⟨by linarith, by linarith⟩
  · split
    · exact ⟨by push_cast; linarith, by push_cast; linarith⟩
    · cases up
      · exact ⟨by simp; linarith, by simp; linarith⟩
      · exact ⟨by simp; linarith, by simp; linarith⟩

theorem le_roundNearest {x : Rat} {k : Nat} (up : Bool) (h : (k : Rat) ≤ x) : k ≤ roundNearest up x := by
  have hnear := (roundNearest_within_half (k.cast_nonneg.trans h) up).2
  have hlt : (k : Rat) < roundNearest up x + 1 := by linarith
  exact Nat.lt_succ_iff.1 (by exact_mod_cast hlt)

theorem roundNearest_le {x : Rat} {k : Nat} (up : Bool) (hx : 0 ≤ x) (h : x < k + 1 / 2) :
    roundNearest up x ≤ k := by
  have hnear := (roundNearest_within_half hx up).1
  have hlt : (roundNearest up x : Rat) < k + 1 := by linarith
  exact Nat.lt_succ_iff.1 (by exact_mod_cast hlt)

/-- An integer is not rounded. -/
theorem roundNearest_natCast (up : Bool) (k : Nat) : roundNearest up (k : Rat) = k :=
  le_antisymm (roundNearest_le up k.cast_nonneg (by linarith)) (le_roundNearest up le_rfl)

end Sys2Proof.Machine
end

section
/-!
SUPPORT. The transforms of an operator bank (43_tuning_transforms.md rules R201 to R204), by mode: RATIO in units of
half a hundredth, FIXED with the coarse value as a power of ten.
-/

namespace Sys2Proof.Machine

/-! ### Operator banks in range (R36) -/

theorem OpBank.coarseX2_ratio {o : OpBank} (h : o.wf = true) (hm : o.mode = 0) :
    o.coarseX2.toNat = 1 ∨ o.coarseX2.toNat % 2 = 0 ∧ 2 ≤ o.coarseX2.toNat ∧ o.coarseX2.toNat ≤ 254 :=
  ((OpBank.wf_iff o).1 h).2.2.1 hm

theorem OpBank.coarse_fixed {o : OpBank} (h : o.wf = true) (hm : o.mode ≠ 0) : ∃ k ≤ 3, o.coarse = 10 ^ k := by
  obtain ⟨-, -, -, hfixed⟩ := (OpBank.wf_iff o).1 h
  have hpow : ∀ x ∈ [2, 20, 200, 2000], ∃ k ≤ 3, x = 2 * 10 ^ k := by decide
  obtain ⟨k, hk, hx⟩ := hpow _ (hfixed hm)
  exact ⟨k, hk, by rw [OpBank.coarse, hx]; push_cast; ring⟩

theorem OpBank.coarse_nonneg (o : OpBank) : 0 ≤ o.coarse := div_nonneg o.coarseX2.toNat.cast_nonneg zero_le_two

theorem OpBank.coarse_pos {o : OpBank} (h : o.wf = true) : 0 < o.coarse := by
  by_cases hm : o.mode = 0
  · have hx : 0 < o.coarseX2.toNat := by
      have := coarseX2_ratio h hm
      omega
    exact div_pos (Nat.cast_pos.2 hx) two_pos
  · obtain ⟨k, -, hk⟩ := coarse_fixed h hm
    rw [hk]
    positivity

theorem OpBank.coarse_eq_half_iff (o : OpBank) : o.coarse = 1 / 2 ↔ o.coarseX2.toNat = 1 := by
  rw [OpBank.coarse, div_left_inj' two_ne_zero, Nat.cast_eq_one]

/-! ### `FINE` -/

theorem mode_toNat_eq_zero (m : BitVec 1) : m.toNat = 0 ↔ m = 0 := BitVec.toNat_inj (y := 0)

theorem fineOf_ratio {o : OpBank} (hm : o.mode = 0) : fineOf o = o.coarse * (1 + o.fineRaw.toNat / 100) := by
  rw [fineOf, if_pos hm, Config.ratioDiv]
  ring

theorem fineOf_fixed {o : OpBank} (hm : o.mode ≠ 0) :
    fineOf o = (1023293 / 1000000) ^ o.fineRaw.toNat * o.coarse := if_neg hm

theorem fineOf_nonneg (o : OpBank) : 0 ≤ fineOf o := by
  have hc := o.coarse_nonneg
  by_cases hm : o.mode = 0
  · rw [fineOf_ratio hm]
    positivity
  · rw [fineOf_fixed hm]
    positivity

/-- `FINE` as the document's formula on what the registers read (R201). -/
theorem fineOf_of_readReg {v : Voice} {d : Fin 6} {c : Rat} {m n : Nat} (hc : readReg v (.coarse d) = .rational c)
    (hm : readReg v (.mode d) = .unsigned m) (hn : readReg v (.fineRaw d) = .unsigned n) :
    fineOf v.op[d] = if m = 0 then c + c * n / 100 else (1023293 / 1000000) ^ n * c := by
  cases hc
  cases hm
  cases hn
  simp only [fineOf, Config.ratioDiv, Config.fixedBase, mode_toNat_eq_zero]

/-- A greater `FINE_RAW` gives a greater `FINE` (R202, R203). -/
theorem fineOf_lt_fineOf {o p : OpBank} (hwf : o.wf = true) (hmode : p.mode = o.mode)
    (hcoarse : p.coarse = o.coarse) (hraw : o.fineRaw.toNat < p.fineRaw.toNat) : fineOf o < fineOf p := by
  have hc := OpBank.coarse_pos hwf
  by_cases hm : o.mode = 0
  · rw [fineOf_ratio hm, fineOf_ratio (hmode.trans hm), hcoarse]
    gcongr
  · rw [fineOf_fixed hm, fineOf_fixed (hmode ▸ hm), hcoarse]
    gcongr
    norm_num

/-! ### `FINE * 10^dp` -/

theorem fineScaled_nonneg (o : OpBank) : 0 ≤ fineScaled o := mul_nonneg (fineOf_nonneg o) (by positivity)

theorem decimalPlaces_eq (o : OpBank) : decimalPlaces o = if o.mode = 0 then 2 else 3 := rfl

/-- In RATIO mode the number to round is a whole number of halves. -/
theorem fineScaled_ratio {o : OpBank} (hm : o.mode = 0) :
    fineScaled o = ((o.coarseX2.toNat * (100 + o.fineRaw.toNat) : Nat) : Rat) / 2 := by
  rw [fineScaled, fineOf_ratio hm, decimalPlaces_eq, if_pos hm, OpBank.coarse]
  push_cast
  ring

theorem fineScaled_fixed {o : OpBank} (hm : o.mode ≠ 0) :
    fineScaled o = (1023293 / 1000000) ^ o.fineRaw.toNat * o.coarse * 1000 := by
  rw [fineScaled, fineOf_fixed hm, decimalPlaces_eq, if_neg hm]
  norm_num

/-- The ends of the range: `COARSE` 1/2 and 127, `FINE_RAW` 0 and 255 (R202, R208). -/
theorem fineScaled_ratio_bounds {o : OpBank} (h : o.wf = true) (hm : o.mode = 0) :
    50 ≤ fineScaled o ∧ fineScaled o ≤ 45085 := by
  have hraw : o.fineRaw.toNat < 256 := o.fineRaw.isLt
  have hcoarse : 1 ≤ o.coarseX2.toNat ∧ o.coarseX2.toNat ≤ 254 := by
    have := OpBank.coarseX2_ratio h hm
    omega
  have hlow : 1 * 100 ≤ o.coarseX2.toNat * (100 + o.fineRaw.toNat) := Nat.mul_le_mul hcoarse.1 (by omega)
  have hhigh : o.coarseX2.toNat * (100 + o.fineRaw.toNat) ≤ 254 * 355 := Nat.mul_le_mul hcoarse.2 (by omega)
  rw [fineScaled_ratio hm, le_div_iff₀ two_pos, div_le_iff₀ two_pos]
  exact ⟨by exact_mod_cast hlow, by exact_mod_cast hhigh⟩

/-- The ends of the range: `COARSE` 1 and 1000, `FINE_RAW` 0 and 255 (R203, R208). -/
theorem fineScaled_fixed_bounds {o : OpBank} (h : o.wf = true) (hm : o.mode ≠ 0) :
    1000 ≤ fineScaled o ∧ fineScaled o < 354814072 + 1 / 2 := by
  obtain ⟨k, hk, hcoarse⟩ := OpBank.coarse_fixed h hm
  have hbase : (1 : Rat) ≤ 1023293 / 1000000 := by norm_num
  have hraw : o.fineRaw.toNat ≤ 255 := Nat.lt_succ_iff.1 o.fineRaw.isLt
  rw [fineScaled_fixed hm, hcoarse]
  constructor
  · calc (1000 : Rat) = 1 * 1 * 1000 := by norm_num
      _ ≤ (1023293 / 1000000) ^ o.fineRaw.toNat * 10 ^ k * 1000 := by
        gcongr
        · exact one_le_pow₀ hbase
        · exact one_le_pow₀ (by norm_num)
  · calc (1023293 / 1000000 : Rat) ^ o.fineRaw.toNat * 10 ^ k * 1000
        ≤ (1023293 / 1000000) ^ 255 * 10 ^ 3 * 1000 := by gcongr; norm_num
      _ < 354814072 + 1 / 2 := by norm_num

/-- A whole number of halves is a tie when the number is odd. -/
theorem isTie_half_iff (k : Nat) : isTie ((k : Rat) / 2) = true ↔ k % 2 = 1 := by
  have hhalf (m : Nat) : (k : Rat) / 2 = m + 1 / 2 ↔ k = 2 * m + 1 := by
    rw [div_eq_iff two_ne_zero, ← Nat.cast_inj (R := Rat)]
    push_cast
    ring_nf
  simp only [isTie_iff (div_nonneg k.cast_nonneg zero_le_two), hhalf]
  exact ⟨by rintro ⟨m, rfl⟩; omega, fun h => ⟨k / 2, by omega⟩⟩

/-- In FIXED mode there is no tie: were `1023293^n * 10^(k+3) / 10^(6*n)` a half-integer, the factors 5 would give
`6*n ≤ k+3`, and then it is an integer. -/
theorem fixed_ne_add_half (k n m : Nat) :
    ((1023293 : Rat) / 1000000) ^ n * 10 ^ k * 1000 ≠ m + 1 / 2 := by
  intro h
  have heq : 2 * 1023293 ^ n * 10 ^ (k + 3) = (2 * m + 1) * 10 ^ (6 * n) := by
    have hpow : (10 : Rat) ^ (6 * n) = 1000000 ^ n := by rw [pow_mul]; norm_num
    have hpos : (1000000 : Rat) ^ n ≠ 0 := by positivity
    rw [div_pow, div_mul_eq_mul_div, div_mul_eq_mul_div, div_eq_iff hpos, ← hpow] at h
    have hrat : (2 * 1023293 ^ n * 10 ^ (k + 3) : Rat) = (2 * m + 1) * 10 ^ (6 * n) := by
      rw [pow_add]
      linear_combination 2 * h
    exact_mod_cast hrat
  have hle : 6 * n ≤ k + 3 := by
    have hcop : Nat.Coprime (5 ^ (6 * n)) (2 ^ (k + 4) * 1023293 ^ n) :=
      Nat.Coprime.pow_left _ (Nat.Coprime.mul_right (Nat.Coprime.pow_right _ (by norm_num))
        (Nat.Coprime.pow_right _ (by norm_num)))
    refine (Nat.pow_dvd_pow_iff_le_right (by norm_num : 1 < 5)).1 (hcop.dvd_of_dvd_mul_left ?_)
    have hfactor : 2 ^ (k + 4) * 1023293 ^ n * 5 ^ (k + 3) = (2 * m + 1) * 2 ^ (6 * n) * 5 ^ (6 * n) := by
      calc 2 ^ (k + 4) * 1023293 ^ n * 5 ^ (k + 3) = 2 * 1023293 ^ n * (2 * 5) ^ (k + 3) := by rw [mul_pow]; ring
        _ = (2 * m + 1) * (2 * 5) ^ (6 * n) := heq
        _ = (2 * m + 1) * 2 ^ (6 * n) * 5 ^ (6 * n) := by rw [mul_pow, mul_assoc]
    exact hfactor ▸ dvd_mul_left _ _
  obtain ⟨j, hj⟩ := Nat.exists_eq_add_of_le hle
  rw [hj, pow_add, mul_comm (10 ^ (6 * n)), ← mul_assoc] at heq
  have hodd := Nat.eq_of_mul_eq_mul_right (by positivity) heq
  rw [mul_assoc] at hodd
  omega

end Sys2Proof.Machine
end

section
/-!
SUPPORT. The decimal digits that are printed (43_tuning_transforms.md rule R207): form and value of the two parts of a
printed decimal.
-/

namespace Sys2Proof.Machine

theorem digitsValue_eq_ofDigitChars (t : List Char) : digitsValue t = Nat.ofDigitChars 10 t 0 :=
  Nat.ofDigitChars_eq_foldl.symm

theorem digitsValue_toDigits (n : Nat) : digitsValue (Nat.toDigits 10 n) = n :=
  (digitsValue_eq_ofDigitChars _).trans Nat.ofDigitChars_ten_toDigits

theorem digitsValue_append_digitChar (t : List Char) {k : Nat} (hk : k < 10) :
    digitsValue (t ++ [Nat.digitChar k]) = 10 * digitsValue t + k := by
  rw [digitsValue, List.foldl_append, List.foldl_cons, List.foldl_nil, Nat.toNat_digitChar_sub_48_of_lt_ten hk]
  rfl

/-- Only zero is written with a leading zero. -/
theorem toDigits_of_head_zero {n : Nat} (h : (Nat.toDigits 10 n).head? = some '0') : Nat.toDigits 10 n = ['0'] := by
  induction n using Nat.strongRecOn with
  | ind n ih =>
    rcases Nat.lt_or_ge n 10 with hn | hn
    · rw [Nat.toDigits_of_lt_base hn] at h ⊢
      exact congrArg (· :: []) (Option.some.inj h)
    · rw [Nat.toDigits_of_base_le (by decide) hn, List.head?_append_of_ne_nil _ Nat.toDigits_ne_nil] at h
      have hzero := congrArg digitsValue (ih (n / 10) (by omega) h)
      rw [digitsValue_toDigits] at hzero
      exact absurd hzero (Nat.div_pos hn (by decide)).ne'

theorem lastDigits_length (k q : Nat) : (lastDigits k q).length = k := by
  induction k generalizing q with
  | zero => rfl
  | succ k ih => simp [lastDigits, ih]

theorem isDigit_of_mem_lastDigits {k q : Nat} {c : Char} (h : c ∈ lastDigits k q) : c.isDigit = true := by
  induction k generalizing q with
  | zero => cases h
  | succ k ih =>
    rcases List.mem_append.1 h with hinit | hlast
    · exact ih hinit
    · rw [List.mem_singleton.1 hlast, Nat.isDigit_digitChar, decide_eq_true_iff]
      exact Nat.mod_lt _ (by decide)

theorem digitsValue_lastDigits (k q : Nat) : digitsValue (lastDigits k q) = q % 10 ^ k := by
  induction k generalizing q with
  | zero => rw [pow_zero, Nat.mod_one]; rfl
  | succ k ih =>
    rw [lastDigits, digitsValue_append_digitChar _ (Nat.mod_lt _ (by decide)), ih, pow_succ', Nat.mod_mul, add_comm]

end Sys2Proof.Machine
end

section
/-!
SUPPORT. What the cells and items of the report show (44_report_renderer.md rules R222 to R228), against the reference
text of what the registers read.
-/

namespace Sys2Proof.Machine

/-- Nothing is rounded when `COARSE` is shown, since `2 * COARSE` is an integer (R210). -/
theorem printCoarse_eq_roundedRef (up : Bool) (o : OpBank) : printCoarse o = roundedRef up 2 o.coarse := by
  have hint : o.coarse * 10 ^ 2 = ((o.coarseX2.toNat * 50 : Nat) : Rat) := by
    rw [OpBank.coarse]
    push_cast
    ring
  rw [roundedRef, hint, roundNearest_natCast]
  rfl

/-- The fine value shown is `FINE`'s formula at the places of the mode (R201, R204). -/
theorem printDecimal_fineDecOf (up : Bool) (v : Voice) (d : Fin 6) :
    printDecimal (fineDecOf up v.op[d]).1 (fineDecOf up v.op[d]).2 =
      if v.op[d].mode.toNat = 0 then
        roundedRef up 2 (v.op[d].coarse + v.op[d].coarse * v.op[d].fineRaw.toNat / 100)
      else roundedRef up 3 ((1023293 / 1000000) ^ v.op[d].fineRaw.toNat * v.op[d].coarse) := by
  simp only [fineDecOf, fineScaled, decimalPlaces_eq, fineOf_of_readReg (v := v) (d := d) rfl rfl rfl,
    mode_toNat_eq_zero]
  split
  · rfl
  · rfl

theorem flag_toNat_eq_one (b : BitVec 1) : b.toNat = 1 ↔ b = 1 := BitVec.toNat_inj (y := 1)

/-- `TUNE` as its sign and its size (R226). -/
theorem tuneText_eq (p : RenderParams) (z : Int) :
    tuneText p z = if z = 0 then p.zeroTune else (if 0 < z then '+' else '-') :: natText z.natAbs := by
  unfold tuneText
  split
  · rfl
  · split
    · rfl
    · rfl

theorem cellText_eq_cellRef (p : RenderParams) (up : Bool) (v : Voice) (d : Fin 6) (row : TableRow) :
    cellText p up v.op[d] row = cellRef p up (readReg v) d row := by
  cases row with
  | bp => exact bpText_of_readReg rfl
  | mode => simp only [cellText, cellRef, readReg, mode_toNat_eq_zero]
  | tune => exact tuneText_eq p _
  | coarse => exact printCoarse_eq_roundedRef up _
  | fine => exact printDecimal_fineDecOf up v d
  | _ => rfl

theorem waveShown_eq (p : RenderParams) (v : Voice) (label : Text) (index : Fin 32) :
    waveShown p v.lfo.waveCode = itemRef p label index (readReg v) .wave := by
  simp only [waveShown, itemRef, readReg]
  cases waveOf v.lfo.waveCode with
  | none => rfl
  | some w => rfl

theorem itemText_eq_itemRef (p : RenderParams) (x : ReportInput) (it : ReportItem) :
    itemText p x it = itemRef p x.label x.index (readReg x.voice) it := by
  cases it with
  | osync => simp only [itemText, itemRef, readReg, flag_toNat_eq_one]
  | sync => simp only [itemText, itemRef, readReg, flag_toNat_eq_one]
  | wave => exact waveShown_eq p x.voice x.label x.index
  | _ => rfl

/-- The reference text of an item needs its register alone. -/
theorem itemRef_congr (p : RenderParams) (label : Text) (index : Fin 32) {read read' : OutReg → RegValue}
    {it : ReportItem} (h : ∀ r, it.reg = some r → read r = read' r) :
    itemRef p label index read it = itemRef p label index read' it := by
  cases it with
  | bankLabel => rfl
  | slotNumber => rfl
  | transpose => rfl
  | _ => simp only [itemRef, h _ rfl]

/-- The reference text of a cell needs its register, and for the fine value the mode and the coarse value beside it. -/
theorem cellRef_congr (p : RenderParams) (up : Bool) {read read' : OutReg → RegValue} {d : Fin 6} {row : TableRow}
    (h : read (row.reg d) = read' (row.reg d))
    (hfine : row = .fine → read (.mode d) = read' (.mode d) ∧ read (.coarse d) = read' (.coarse d)) :
    cellRef p up read d row = cellRef p up read' d row := by
  cases row with
  | fine =>
    obtain ⟨hmode, hcoarse⟩ := hfine rfl
    simp only [TableRow.reg] at h
    simp only [cellRef, h, hmode, hcoarse]
  | _ =>
    simp only [TableRow.reg] at h
    simp only [cellRef, h]

end Sys2Proof.Machine
end

section
/-!
PROOFS. The statements of 43_tuning_transforms.md, and what the report shows (44_report_renderer.md).
-/

namespace Sys2Proof.Machine

/-- Settles O42: `FINE` of the bank is the formula on what `READ` gives. -/
theorem fineIsTheExactFormula : Obligations.FineIsTheExactFormula := by
  refine fun s d rest hp => ⟨fun hvalid c m n hc hm hn => ?answers, fun hvalid => ?faults⟩
  case answers =>
    rw [← fineOf_of_readReg hc hm hn]
    exact (step_cons s _ rest hp).trans ((cmdFine_eq_next ..).2 ⟨hvalid, rfl⟩)
  case faults => exact (step_cons s _ rest hp).trans (if_neg (Bool.eq_false_iff.1 hvalid))

/-- Settles O43: `FINEDEC` rounds `FINE * 10^dp`, and rounding moves a number by at most one half. -/
theorem fineDecAnswersTheNearest : Obligations.FineDecAnswersTheNearest := by
  refine fun s d rest hp => ⟨fun hvalid => ?answers, fun hvalid => ?faults⟩
  case answers =>
    obtain ⟨hup, hdown⟩ := roundNearest_within_half (fineScaled_nonneg s.voice.op[d])
      (Config.tieUp s.draws (fineScaled s.voice.op[d]).floor.toNat)
    exact ⟨_, _, _, (step_cons s _ rest hp).trans (if_pos hvalid), rfl, decimalPlaces_eq _, hup, hdown,
      rfl, rfl, rfl, rfl, rfl, rfl⟩
  case faults => exact (step_cons s _ rest hp).trans (if_neg (Bool.eq_false_iff.1 hvalid))

/-- Settles O44: in RATIO mode the number to round is `COARSE_X2 * (100 + FINE_RAW)` halves, and an in-range
`COARSE_X2` is odd only for 1/2; in FIXED mode there is no tie. -/
theorem tiesAreExactlyTheOddHalves : Obligations.TiesAreExactlyTheOddHalves := by
  intro o hwf
  rw [OpBank.coarse_eq_half_iff]
  by_cases hm : o.mode = 0
  · rw [fineScaled_ratio hm, isTie_half_iff, Nat.mul_mod]
    rcases OpBank.coarseX2_ratio hwf hm with hone | ⟨heven, hpos, -⟩
    · simp [hm, hone, Nat.add_mod]
    · have hne : o.coarseX2.toNat ≠ 1 := by omega
      simp [heven, hne]
  · obtain ⟨k, -, hcoarse⟩ := OpBank.coarse_fixed hwf hm
    refine iff_of_false (fun htie => ?_) fun h => hm h.1
    obtain ⟨m, he⟩ := (isTie_iff (fineScaled_nonneg o)).1 htie
    rw [fineScaled_fixed hm, hcoarse] at he
    exact fixed_ne_add_half k _ m he

/-- Settles O45: the rounding's choice is its only freedom. -/
theorem tieIsTheOnlyFreeChoice : Obligations.TieIsTheOnlyFreeChoice := by
  refine fun o => ⟨fun hno => congrArg (Prod.mk _) (roundNearest_of_not_isTie (fineScaled_nonneg o) hno _ _),
    fun htie => ?_⟩
  obtain ⟨m, he, htrue, hfalse⟩ := roundNearest_of_isTie (fineScaled_nonneg o) htie
  rw [fineDecOf, fineDecOf, htrue, hfalse]
  exact ⟨rfl, he⟩

/-- Settles O46: rounding keeps the bounds of the number to round, which lie at the ends of the registers' ranges. -/
theorem fineDecRanges : Obligations.FineDecRanges := by
  refine fun o up hwf => ⟨fun hm => ?ratio, fun hm => ?fixed⟩
  case ratio =>
    obtain ⟨hlow, hhigh⟩ := fineScaled_ratio_bounds hwf hm
    exact ⟨le_roundNearest up (by exact_mod_cast hlow),
      roundNearest_le up (fineScaled_nonneg o) (by norm_num; linarith)⟩
  case fixed =>
    obtain ⟨hlow, hhigh⟩ := fineScaled_fixed_bounds hwf hm
    exact ⟨le_roundNearest up (by exact_mod_cast hlow),
      roundNearest_le up (fineScaled_nonneg o) (by exact_mod_cast hhigh)⟩

/-- Settles O47: `FINE` at `FINE_RAW = 0` by mode, and its monotonicity. -/
theorem fineStartsAtCoarseAndIncreases : Obligations.FineStartsAtCoarseAndIncreases := by
  refine fun o p hwf hmode hcoarse => ⟨fun hraw => ?starts,
    fineOf_lt_fineOf hwf hmode (congrArg (fun c : BitVec 11 => (c.toNat : Rat) / 2) hcoarse)⟩
  case starts =>
    by_cases hm : o.mode = 0
    · simp [fineOf_ratio hm, hraw]
    · simp [fineOf_fixed hm, hraw]

/-- Settles O48: the integer part is `toDigits`, the rest are the last `dp` digits. -/
theorem printedDecimalReadsBack : Obligations.PrintedDecimalReadsBack := by
  refine fun dp q => ⟨_, _, rfl, lastDigits_length .., fun c hc => ?_, Nat.toDigits_ne_nil, toDigits_of_head_zero,
    digitsValue_toDigits _, (digitsValue_lastDigits ..).trans (Nat.mod_mod ..)⟩
  rcases List.mem_append.1 hc with hwhole | hfrac
  · exact Nat.isDigit_of_mem_toDigits (by decide) le_rfl hwhole
  · exact isDigit_of_mem_lastDigits hfrac

/-- Settles O56: cells and items are the reference text, which needs no more than the registers named. -/
theorem shownTextIsAFunctionOfItsRegister : Obligations.ShownTextIsAFunctionOfItsRegister := by
  refine ⟨cellText_eq_cellRef, itemText_eq_itemRef, fun p x y it hlabel hindex h => ?items,
    fun p up v w d row h hfine => ?cells⟩
  case items =>
    rw [itemText_eq_itemRef, itemText_eq_itemRef, hlabel, hindex]
    exact itemRef_congr p _ _ h
  case cells =>
    rw [cellText_eq_cellRef, cellText_eq_cellRef]
    exact cellRef_congr p up h hfine

end Sys2Proof.Machine
end

section
/-!
SUPPORT. Which registers a section of the report shows (44_report_renderer.md rule R234), that its lines need no others,
and where in its lines the text of an item and of a cell stands.
-/

namespace Sys2Proof.Machine

/-! ### The registers of the sections -/

theorem item_reg_mem_regs {sec : ReportSection} {it : ReportItem} {r : OutReg} (h : it ∈ sec.items)
    (hr : it.reg = some r) : r ∈ sec.regs :=
  List.mem_append_left _ (List.mem_filterMap.2 ⟨it, h, hr⟩)

theorem row_reg_mem_regs {sec : ReportSection} {row : TableRow} (h : row ∈ sec.rows) (d : Fin 6) :
    row.reg d ∈ sec.regs :=
  List.mem_append_right _ (List.mem_flatMap.2 ⟨row, h, List.mem_map.2 ⟨d, List.mem_finRange d, rfl⟩⟩)

theorem mem_reportSections (sec : ReportSection) : sec ∈ reportSections := by
  cases sec <;> decide

/-- Every row stands in one of the four tables. -/
theorem exists_mem_rows (row : TableRow) : ∃ sec : ReportSection, row ∈ sec.rows := by
  cases row with
  | egr j => exact ⟨.envelope, List.mem_append_left _ (List.mem_map_of_mem (List.mem_finRange j))⟩
  | egl j => exact ⟨.envelope, List.mem_append_right _ (List.mem_map_of_mem (List.mem_finRange j))⟩
  | bp | ld | rd | lc | rc => exact ⟨.scaling, by decide⟩
  | mode | tune | coarse | fine => exact ⟨.oscillator, by decide⟩
  | rs | kvs | ams | level => exact ⟨.performance, by decide⟩

/-- Every item stands in one of the sections 2, 3 and 8. -/
theorem exists_mem_items (it : ReportItem) : ∃ sec : ReportSection, it ∈ sec.items := by
  cases it with
  | bankLabel | slotNumber | voiceName => exact ⟨.identity, by decide⟩
  | alg | fb | osync | transpose => exact ⟨.header, by decide⟩
  | pegr j =>
    exact ⟨.lfoPitch,
      List.mem_append_left _ (List.mem_append_right _ (List.mem_map_of_mem (List.mem_finRange j)))⟩
  | pegl j => exact ⟨.lfoPitch, List.mem_append_right _ (List.mem_map_of_mem (List.mem_finRange j))⟩
  | _ => exact ⟨.lfoPitch, by decide⟩

/-- A register is that of a table row, where it belongs to a bank, and otherwise that of an item. -/
theorem OutReg.shown (r : OutReg) :
    (∃ (row : TableRow) (d : Fin 6), row.reg d = r) ∨ ∃ it : ReportItem, it.reg = some r := by
  cases r with
  | egr d j => exact .inl ⟨.egr j, d, rfl⟩
  | egl d j => exact .inl ⟨.egl j, d, rfl⟩
  | bp d => exact .inl ⟨.bp, d, rfl⟩
  | ld d => exact .inl ⟨.ld, d, rfl⟩
  | rd d => exact .inl ⟨.rd, d, rfl⟩
  | lc d => exact .inl ⟨.lc, d, rfl⟩
  | rc d => exact .inl ⟨.rc, d, rfl⟩
  | tune d => exact .inl ⟨.tune, d, rfl⟩
  | rs d => exact .inl ⟨.rs, d, rfl⟩
  | ams d => exact .inl ⟨.ams, d, rfl⟩
  | kvs d => exact .inl ⟨.kvs, d, rfl⟩
  | level d => exact .inl ⟨.level, d, rfl⟩
  | mode d => exact .inl ⟨.mode, d, rfl⟩
  | coarse d => exact .inl ⟨.coarse, d, rfl⟩
  | fineRaw d => exact .inl ⟨.fine, d, rfl⟩
  | pegr j => exact .inr ⟨.pegr j, rfl⟩
  | pegl j => exact .inr ⟨.pegl j, rfl⟩
  | alg => exact .inr ⟨.alg, rfl⟩
  | fb => exact .inr ⟨.fb, rfl⟩
  | osync => exact .inr ⟨.osync, rfl⟩
  | lfoSpeed => exact .inr ⟨.speed, rfl⟩
  | lfoDelay => exact .inr ⟨.delay, rfl⟩
  | lfoPmd => exact .inr ⟨.pmd, rfl⟩
  | lfoAmd => exact .inr ⟨.amd, rfl⟩
  | lfoSync => exact .inr ⟨.sync, rfl⟩
  | lfoWave => exact .inr ⟨.wave, rfl⟩
  | pms => exact .inr ⟨.pms, rfl⟩
  | name => exact .inr ⟨.voiceName, rfl⟩

theorem mem_shownRegs (r : OutReg) : r ∈ reportSections.flatMap ReportSection.regs := by
  rcases r.shown with ⟨row, d, rfl⟩ | ⟨it, hr⟩
  · obtain ⟨sec, hrow⟩ := exists_mem_rows row
    exact List.mem_flatMap.2 ⟨sec, mem_reportSections sec, row_reg_mem_regs hrow d⟩
  · obtain ⟨sec, hit⟩ := exists_mem_items it
    exact List.mem_flatMap.2 ⟨sec, mem_reportSections sec, item_reg_mem_regs hit hr⟩

/-- The sections show every register, and no more of them than there are: so each once (R234). -/
theorem shownRegs_perm : (reportSections.flatMap ReportSection.regs).Perm allRegs := by
  have hlen : (reportSections.flatMap ReportSection.regs).length ≤ allRegs.length := by decide +kernel
  exact ((allRegs_nodup.subperm fun r _ => mem_shownRegs r).perm_of_length_le hlen).symm

/-! ### A section's lines need the section's registers alone -/

/-- The fine value is shown in the table that shows the mode and the coarse value it is computed from. -/
theorem mode_coarse_mem_rows_of_fine {sec : ReportSection} (h : .fine ∈ sec.rows) :
    .mode ∈ sec.rows ∧ .coarse ∈ sec.rows := by
  cases sec with
  | oscillator => decide
  | _ => exact absurd h (by decide)

theorem itemText_congr_of_regs (p : RenderParams) {x y : ReportInput} {sec : ReportSection}
    (hlabel : x.label = y.label) (hindex : x.index = y.index)
    (hregs : ∀ r ∈ sec.regs, readReg x.voice r = readReg y.voice r) {it : ReportItem} (h : it ∈ sec.items) :
    itemText p x it = itemText p y it := by
  rw [itemText_eq_itemRef, itemText_eq_itemRef, hlabel, hindex]
  exact itemRef_congr p _ _ fun r hr => hregs r (item_reg_mem_regs h hr)

theorem tableLine_congr_of_regs (p : RenderParams) {x y : ReportInput} {sec : ReportSection} (htie : x.tie = y.tie)
    (hregs : ∀ r ∈ sec.regs, readReg x.voice r = readReg y.voice r) {row : TableRow} (h : row ∈ sec.rows) :
    tableLine p x row = tableLine p y row := by
  refine congrArg (columnsLine p (p.rowLabel row)) (funext fun d => ?_)
  rw [cellText_eq_cellRef, cellText_eq_cellRef, htie]
  refine cellRef_congr p _ (hregs _ (row_reg_mem_regs h d)) ?_
  rintro rfl
  obtain ⟨hmode, hcoarse⟩ := mode_coarse_mem_rows_of_fine h
  exact ⟨hregs _ (row_reg_mem_regs hmode d), hregs _ (row_reg_mem_regs hcoarse d)⟩

theorem sectionLines_congr_of_regs (p : RenderParams) {x y : ReportInput} {sec : ReportSection}
    (hlabel : x.label = y.label) (hindex : x.index = y.index) (htie : x.tie = y.tie)
    (hregs : ∀ r ∈ sec.regs, readReg x.voice r = readReg y.voice r) :
    sectionLines p x sec = sectionLines p y sec := by
  have hitems (title : ReportItem → Text) : sec.items.map (fun it => title it ++ itemText p x it) =
      sec.items.map fun it => title it ++ itemText p y it :=
    List.map_congr_left fun _ h => congrArg _ (itemText_congr_of_regs p hlabel hindex hregs h)
  have hrows : sec.rows.map (tableLine p x) = sec.rows.map (tableLine p y) :=
    List.map_congr_left fun _ h => tableLine_congr_of_regs p htie hregs h
  have hbody : sectionBody p x sec = sectionBody p y sec := by
    cases sec with
    | banner => rfl
    | identity | header => exact congrArg (fun ts => [List.intercalate _ ts]) (hitems _)
    | envelope | scaling | oscillator | performance => exact congrArg (titleLine p :: ·) hrows
    | lfoPitch => exact hitems fun it => fitLabel p (itemTitle p it)
  rw [sectionLines, sectionLines, hbody]

/-! ### Where the text of an item and of a cell stands -/

theorem infix_intercalate {t : Text} {ts : List Text} (gap : Text) (h : t ∈ ts) : t <:+: gap.intercalate ts := by
  obtain ⟨k, hk, rfl⟩ := List.getElem_of_mem h
  rw [List.getElem_eq_getElem_intersperse_two_mul (sep := gap)]
  exact List.infix_of_mem_flatten (List.getElem_mem _)

theorem sectionBody_subset_lines (p : RenderParams) (x : ReportInput) (sec : ReportSection) :
    sectionBody p x sec ⊆ sectionLines p x sec :=
  fun _ h => (mem_sectionLines ..).2 (.inr (.inr h))

/-- An item stands in a line of its section: among the others in sections 2 and 3, on a line of its own in section 8. -/
theorem item_infix_line (p : RenderParams) (x : ReportInput) {sec : ReportSection} {it : ReportItem}
    (h : it ∈ sec.items) :
    ∃ line ∈ sectionBody p x sec, itemTitle p it ++ itemText p x it <:+: line ∨
      fitLabel p (itemTitle p it) ++ itemText p x it <:+: line := by
  cases sec with
  | banner | envelope | scaling | oscillator | performance => cases h
  | identity | header =>
    exact ⟨_, List.mem_singleton_self _, .inl (infix_intercalate _ (List.mem_map.2 ⟨it, h, rfl⟩))⟩
  | lfoPitch => exact ⟨_, List.mem_map.2 ⟨it, h, rfl⟩, .inr List.infix_rfl⟩

/-- The four sections with rows are the tables: a line of column names, then a line for each row. -/
theorem sectionBody_of_rows (p : RenderParams) (x : ReportInput) {sec : ReportSection} (h : sec.rows ≠ []) :
    sectionBody p x sec = titleLine p :: sec.rows.map (tableLine p x) := by
  cases sec with
  | banner | identity | header | lfoPitch => exact absurd rfl h
  | envelope | scaling | oscillator | performance => rfl

theorem titleLine_mem_sectionLines (p : RenderParams) (x : ReportInput) {sec : ReportSection} (h : sec.rows ≠ []) :
    titleLine p ∈ sectionLines p x sec :=
  sectionBody_subset_lines p x sec (sectionBody_of_rows p x h ▸ List.mem_cons_self)

theorem tableLine_mem_sectionLines (p : RenderParams) (x : ReportInput) {sec : ReportSection} {row : TableRow}
    (h : row ∈ sec.rows) : tableLine p x row ∈ sectionLines p x sec :=
  sectionBody_subset_lines p x sec
    (sectionBody_of_rows p x (List.ne_nil_of_mem h) ▸ List.mem_cons_of_mem _ (List.mem_map_of_mem h))

end Sys2Proof.Machine
end

section
/-!
PROOFS. The statements of 44_report_renderer.md about the report's sections and its labels.
-/

namespace Sys2Proof.Machine

/-- Settles O55: the rows and items name every register, and a section is made of the texts of its rows and items. -/
theorem reportShowsEveryRegisterOnce : Obligations.ReportShowsEveryRegisterOnce := by
  refine ⟨⟨shownRegs_perm, rfl, by decide⟩, fun p x y sec => sectionLines_congr_of_regs p,
    fun p x sec => ⟨fun it hit => ?items, fun row hrow => ?cells⟩⟩
  case items =>
    obtain ⟨line, hline, hinfix⟩ := item_infix_line p x hit
    exact ⟨line, sectionBody_subset_lines p x sec hline, hinfix⟩
  case cells => exact ⟨_, tableLine_mem_sectionLines p x hrow, cell_infix_columns p _ _⟩

/-- Settles O57: the report is `render` of the outputs, and the labels of the document are computed. -/
theorem reportIsOfTheValidVoice : Obligations.ReportIsOfTheValidVoice := by
  refine ⟨fun p tie label k s => ⟨fun hs => ?valid, fun hs => ?faults⟩, fun x => ?slot,
    fun p sec hrows x => titleLine_mem_sectionLines p x hrows, fun p => ⟨rfl, rfl, rfl⟩⟩
  case valid =>
    refine ⟨_, (State.report_eq_next ..).2 ⟨hs, rfl⟩, fun t ht hvoice => ?_⟩
    exact (State.report_eq_next ..).2 ⟨ht, hvoice ▸ rfl⟩
  case faults => exact if_neg (Bool.eq_false_iff.1 hs)
  case slot => exact ⟨Nat.succ_pos _, x.index.isLt, rfl⟩

end Sys2Proof.Machine
end

section
/-!
SUPPORT. A host program as a whole (70_reset_and_hazards.md): a run taken apart step by step, when each command
completes, and what the host knows of the machine from its own commands.
-/

namespace Sys2Proof.Machine

/-! ### Steps and runs -/

/-- A step with no command pending changes nothing (R263). -/
theorem step_nil {s : State} (h : s.pending = []) : step s = .next s := by
  rw [step, performNext, h]

/-- A run of `k + 1` steps is a step that completes, and then a run of `k` steps. -/
theorem run_succ_eq_next (M : Host.Core) (k : Nat) (s t : M.State) :
    M.run (k + 1) s = .next t ↔ ∃ u, M.step s = .next u ∧ M.run k u = .next t := by
  rw [Host.Core.run]
  cases M.step s with
  | next u => simp
  | fault f => simp
  | refused r => simp

/-- With no command pending a run of any length ends where it began. -/
theorem run_of_no_command {s : State} (h : s.pending = []) (k : Nat) : Host.Core.run core k s = .next s := by
  induction k with
  | zero => rfl
  | succ k ih => exact (run_succ_eq_next core k s s).2 ⟨s, step_nil h, ih⟩

/-! ### When a command completes -/

theorem cmdDecode_completes_iff (s : State) : (∃ t, cmdDecode s = .next t) ↔ s.rb.complete = true := by
  constructor
  · rintro ⟨t, ht⟩
    exact ((cmdDecode_eq_next s t).1 ht).1
  · intro hc
    exact (cmdDecode_next_or_fault s).resolve_right fun ⟨hstop, _⟩ => Bool.false_ne_true (hstop.symm.trans hc)

theorem Memory.complete_nil : Memory.complete [] = false := rfl

/-- A `DECODE` of a record not fully written is the fault `Unwritten` (R192, R247). -/
theorem step_decode_of_not_complete {s : State} {rest : List Command} (hp : s.pending = .decode :: rest)
    (h : s.rb.complete = false) : step s = .fault .unwritten :=
  (step_cons s _ rest hp).trans (if_neg (Bool.eq_false_iff.1 h))

theorem cmdRecWrite_completes_iff (a : Nat) (v : Byte) (s : State) :
    (∃ t, cmdRecWrite a v s = .next t) ↔ a < Config.recSize := by
  simp [cmdRecWrite, writeRec_eq_next]

theorem cmdRecRead_completes_iff (a : Nat) (s : State) :
    (∃ t, cmdRecRead a s = .next t) ↔ a < Config.recSize ∧ (s.rb.read a).isSome = true := by
  simp [cmdRecRead_eq_next, Option.isSome_iff_exists]

/-- A use of an output register while `VALID = 0` is the fault `Unwritten` (R193, R200, R247). -/
theorem useOfVoice_of_not_valid {s : State} {c : Command} (hc : c.UsesVoice) (hv : s.valid = false) :
    runCommand c s = .fault .unwritten := by
  rcases hc with ⟨r, rfl⟩ | ⟨d, rfl⟩ | ⟨d, rfl⟩ <;> exact if_neg (Bool.eq_false_iff.1 hv)

/-- A step that uses an output register while `VALID = 0` is that fault. -/
theorem step_useOfVoice_of_not_valid {s : State} {c : Command} {rest : List Command} (hp : s.pending = c :: rest)
    (hc : c.UsesVoice) (hv : s.valid = false) : step s = .fault .unwritten :=
  (step_cons s c rest hp).trans (useOfVoice_of_not_valid hc hv)

/-- A use of an output register completes exactly while `VALID = 1` (R193, R200). -/
theorem useOfVoice_completes_iff {s : State} {c : Command} (hc : c.UsesVoice) :
    (∃ t, runCommand c s = .next t) ↔ s.valid = true := by
  constructor
  · rintro ⟨t, ht⟩
    by_contra hv
    exact nomatch (useOfVoice_of_not_valid hc (Bool.eq_false_iff.2 hv)).symm.trans ht
  · intro hv
    exact (useOfVoice_next_or_fault hc).resolve_right fun ⟨hstop, _⟩ => Bool.false_ne_true (hstop.symm.trans hv)

theorem cmdLoadSlice_completes_iff (buf : List Byte) (k : Nat) (s : State) :
    (∃ t, cmdLoadSlice buf k s = .next t) ↔ k < Config.nVoices ∧ buf ∈ s.banks := by
  constructor
  · rintro ⟨t, ht⟩
    obtain ⟨hm, record, hslice, -⟩ := (cmdLoadSlice_eq_next ..).1 ht
    exact ⟨((sliceBank_eq_some ..).1 hslice).1, hm⟩
  · rintro ⟨hk, hm⟩
    exact ⟨_, (cmdLoadSlice_eq_next ..).2 ⟨hm, _, if_pos hk, rfl⟩⟩

theorem cmdLoadSlot_completes_iff (buf : List Byte) (slot : Nat) (s : State) :
    (∃ t, cmdLoadSlot buf slot s = .next t) ↔ (1 ≤ slot ∧ slot ≤ Config.nVoices) ∧ buf ∈ s.banks := by
  rcases slot_cases slot with ⟨k, hk, rfl⟩ | hout
  · rw [cmdLoadSlot_succ buf hk, cmdLoadSlice_completes_iff]
    simp [hk, Nat.succ_le_of_lt hk]
  · have hrange : ¬ (1 ≤ slot ∧ slot ≤ Config.nVoices) := by omega
    simp [cmdLoadSlot_out_of_range buf hout, hrange]

/-! ### What the host knows -/

/-- A byte of the record buffer has a value exactly when its address is listed. -/
theorem Memory.isSome_read_iff (m : Memory) (a : Nat) : (m.read a).isSome = true ↔ a ∈ m.map Prod.fst := by
  induction m with
  | nil => simp
  | cons c m ih =>
    rw [Memory.read_cons, List.map_cons, List.mem_cons, ← ih]
    by_cases h : c.1 = a
    · simp [h]
    · simp [h, Ne.symm h]

/-- The host's own account `u` is true of the state, and `cs` are the commands it has not issued yet. The addresses are
compared as a set: the host lists one as often as it writes it. -/
structure Duty.Knows (u : Duty) (cs : List Command) (s : State) : Prop where
  written : ∀ a, a ∈ u.written ↔ (s.rb.read a).isSome = true
  decoded : u.decoded = s.valid
  banked : u.banked = s.banks
  pending : s.pending = cs

theorem dutyOf_knows (s : State) : (dutyOf s).Knows s.pending s where
  written a := (Memory.isSome_read_iff s.rb a).symm
  decoded := rfl
  banked := rfl
  pending := rfl

namespace Duty.Knows
variable {u : Duty} {cs : List Command} {s : State}

/-- Taking a command from the queue changes nothing the host knows. -/
theorem withPending (h : u.Knows cs s) (rest : List Command) : u.Knows rest { s with pending := rest } :=
  ⟨h.written, h.decoded, h.banked, rfl⟩

theorem reply (h : u.Knows cs s) (r : Reply) : u.Knows cs (s.reply r) := ⟨h.written, h.decoded, h.banked, h.pending⟩

theorem loadRec (h : u.Knows cs s) (record : Vector Byte 128) :
    Duty.Knows { u with written := List.range Config.recSize ++ u.written } cs (s.loadRec record) := by
  refine ⟨fun a => ?_, h.decoded, h.banked, h.pending⟩
  rw [List.mem_append, List.mem_range, h.written, State.loadRec_rb, Memory.read_writeBytes]
  by_cases ha : a < Config.recSize
  · have hlt : a < 128 := ha
    simp [ha, hlt]
  · have hge : ¬ a < 128 := ha
    simp [ha, hge]

theorem recWrite (h : u.Knows cs s) (a : Nat) (v : Byte) :
    Duty.Knows { u with written := a :: u.written } cs { s with rb := s.rb.write a v } := by
  refine ⟨fun b => ?_, h.decoded, h.banked, h.pending⟩
  rw [List.mem_cons, h.written, Memory.read_write]
  by_cases hb : b = a
  · simp [hb]
  · simp [hb]

theorem presentBank (h : u.Knows cs s) {buf : List Byte} {t : State} (ht : cmdPresentBank (.bytes buf) s = .next t) :
    (u.after (.presentBank (.bytes buf))).Knows cs t := by
  cases hval : validate buf with
  | true =>
    obtain rfl := Host.Outcome.next.inj ((cmdPresentBank_of_validate s hval).symm.trans ht)
    rw [Duty.after, if_pos hval]
    exact ⟨h.written, h.decoded, congrArg (buf :: ·) h.banked, h.pending⟩
  | false =>
    obtain rfl := Host.Outcome.next.inj ((cmdPresentBank_of_not_validate s hval).symm.trans ht)
    rw [Duty.after, if_neg (Bool.eq_false_iff.1 hval)]
    exact h.reply _

/-- The host's account stays true over every command that completes, but for the unreadable bank, after which the host
has no more commands (R117). -/
theorem after_command {c : Command} {t : State} (h : u.Knows cs s) (hc : c ≠ .presentBank .unreadable)
    (ht : runCommand c s = .next t) : (u.after c).Knows cs t := by
  cases c with
  | reset => cases ht; exact ⟨fun a => by simp [Duty.after], rfl, h.banked, h.pending⟩
  | load record => cases ht; exact h.loadRec record
  | recWrite a v =>
    obtain ⟨-, rfl⟩ := (writeRec_eq_next ..).1 ht
    exact h.recWrite a v
  | recRead a =>
    obtain ⟨-, b, -, rfl⟩ := (cmdRecRead_eq_next ..).1 ht
    exact h.reply _
  | decode =>
    obtain ⟨-, v, -, -, rfl⟩ := cmdDecode_cases ht
    exact ⟨h.written, rfl, h.banked, h.pending⟩
  | read r =>
    obtain ⟨-, rfl⟩ := (cmdRead_eq_next ..).1 ht
    exact h.reply _
  | readStatus => cases ht; exact h.reply _
  | readStrap => cases ht; exact h.reply _
  | fine d =>
    obtain ⟨-, rfl⟩ := (cmdFine_eq_next ..).1 ht
    exact h.reply _
  | fineDec d =>
    obtain ⟨dp, q, n, rfl⟩ := cmdFineDec_cases ht
    exact ⟨h.written, h.decoded, h.banked, h.pending⟩
  | presentBank src =>
    cases src with
    | unreadable => exact absurd rfl hc
    | bytes buf => exact h.presentBank ht
  | loadSlice buf k =>
    obtain ⟨-, record, -, rfl⟩ := (cmdLoadSlice_eq_next ..).1 ht
    exact h.loadRec record
  | loadSlot buf slot =>
    obtain ⟨record, rfl⟩ := cmdLoadSlot_cases ht
    exact h.loadRec record

/-! ### What the host is allowed -/

theorem complete_iff (h : u.Knows cs s) :
    (List.range Config.recSize).all u.written.contains = true ↔ s.rb.complete = true := by
  simp [Memory.complete_iff, h.written]

theorem allows_useOfVoice (h : u.Knows cs s) {c : Command} (hc : c.UsesVoice) :
    u.allows c = true ↔ ∃ t, runCommand c s = .next t := by
  have hallows : u.allows c = u.decoded := by
    rcases hc with ⟨r, rfl⟩ | ⟨d, rfl⟩ | ⟨d, rfl⟩ <;> rfl
  rw [hallows, h.decoded, useOfVoice_completes_iff hc]

/-- A command keeps the host's duties exactly when it completes (R265, R268 to R270). -/
theorem allows_iff (h : u.Knows cs s) (c : Command) :
    u.allows c = true ↔ ∃ t, runCommand c s = .next t := by
  cases c with
  | reset => exact ⟨fun _ => ⟨_, rfl⟩, fun _ => rfl⟩
  | load record => exact ⟨fun _ => ⟨_, rfl⟩, fun _ => rfl⟩
  | recWrite a v =>
    refine .trans ?_ (cmdRecWrite_completes_iff a v s).symm
    simp [Duty.allows, Command.wf]
  | recRead a =>
    refine .trans ?_ (cmdRecRead_completes_iff a s).symm
    simp [Duty.allows, Command.wf, h.written]
  | decode => exact h.complete_iff.trans (cmdDecode_completes_iff s).symm
  | read r => exact h.allows_useOfVoice (.inl ⟨r, rfl⟩)
  | readStatus => exact ⟨fun _ => ⟨_, rfl⟩, fun _ => rfl⟩
  | readStrap => exact ⟨fun _ => ⟨_, rfl⟩, fun _ => rfl⟩
  | fine d => exact h.allows_useOfVoice (.inr (.inl ⟨d, rfl⟩))
  | fineDec d => exact h.allows_useOfVoice (.inr (.inr ⟨d, rfl⟩))
  | presentBank src => exact ⟨fun _ => cmdPresentBank_completes src s, fun _ => rfl⟩
  | loadSlice buf k =>
    refine .trans ?_ (cmdLoadSlice_completes_iff buf k s).symm
    simp [Duty.allows, Command.wf, h.banked]
  | loadSlot buf slot =>
    refine .trans ?_ (cmdLoadSlot_completes_iff buf slot s).symm
    simp [Duty.allows, Command.wf, h.banked]

end Duty.Knows

theorem Duty.obeyed_cons {u : Duty} {c : Command} {rest : List Command} (hc : c ≠ .presentBank .unreadable) :
    u.obeyed (c :: rest) = (u.allows c && (u.after c).obeyed rest) := by
  rw [Duty.obeyed]
  exact hc

/-- A host program runs to its end exactly when it keeps the duties, whatever true account of the state the host starts
from. -/
theorem run_completes_iff_obeyed {u : Duty} {cs : List Command} {s : State} (h : u.Knows cs s) :
    (∃ t : State, Host.Core.run core cs.length s = .next t ∧ t.pending = []) ↔ u.obeyed cs = true := by
  induction cs generalizing u s with
  | nil => exact ⟨fun _ => rfl, fun _ => ⟨s, rfl, h.pending⟩⟩
  | cons c rest ih =>
    have hstep := step_cons s c rest h.pending
    by_cases hc : c = .presentBank .unreadable
    · subst hc
      have hrun := (run_succ_eq_next core rest.length ..).2 ⟨_, hstep, run_of_no_command rfl rest.length⟩
      exact ⟨fun _ => rfl, fun _ => ⟨_, hrun, rfl⟩⟩
    · have h' := h.withPending rest
      rw [Duty.obeyed_cons hc, Bool.and_eq_true, h'.allows_iff]
      constructor
      · rintro ⟨t, hrun, ht⟩
        obtain ⟨v, hv, hrest⟩ := (run_succ_eq_next core ..).1 hrun
        have hcv := hstep.symm.trans hv
        exact ⟨⟨v, hcv⟩, (ih (h'.after_command hc hcv)).1 ⟨t, hrest, ht⟩⟩
      · rintro ⟨⟨v, hcv⟩, hob⟩
        obtain ⟨t, hrest, ht⟩ := (ih (h'.after_command hc hcv)).2 hob
        exact ⟨t, (run_succ_eq_next core ..).2 ⟨v, hstep.trans hcv, hrest⟩, ht⟩

end Sys2Proof.Machine
end

section
/-!
PROOFS. The statements of 70_reset_and_hazards.md: `RESET`, the idle PDU, and the host's duties.
-/

namespace Sys2Proof.Machine

/-- Settles O54: the host's account of the machine is true at the start and stays true, and each command it allows is
one that completes. -/
theorem hostProgramRunsExactlyWhenDutiesAreKept : Obligations.HostProgramRunsExactlyWhenDutiesAreKept :=
  fun s => run_completes_iff_obeyed (dutyOf_knows s)

/-- Settles O35: after `RESET` every use of a value meets `VALID = 0` or an unwritten byte. -/
theorem resetLeavesNoValue : Obligations.ResetLeavesNoValue := by
  intro s rest hp
  refine ⟨_, step_cons s _ rest hp, rfl, Memory.read_nil, rfl, rfl, rfl, rfl,
    ?read, ?fine, ?fineDec, ?decode, fun _ => rfl⟩
  case read => exact fun r _ => step_useOfVoice_of_not_valid rfl (.inl ⟨r, rfl⟩) rfl
  case fine => exact fun d _ => step_useOfVoice_of_not_valid rfl (.inr (.inl ⟨d, rfl⟩)) rfl
  case fineDec => exact fun d _ => step_useOfVoice_of_not_valid rfl (.inr (.inr ⟨d, rfl⟩)) rfl
  case decode => exact fun _ => step_decode_of_not_complete rfl Memory.complete_nil

/-- Settles O37: the queue is empty, so there is no command to perform. -/
theorem idleWithoutCommand : Obligations.IdleWithoutCommand := fun _ => step_nil

end Sys2Proof.Machine
end
